-- ==== Sys2Proof/Word.lean ====
section
/-! DEFINITION. The word types of deterministic_prng_engine (00_scope.md rules R7, R12, R14, R15;
30_encoding.md rules R71, R75). Names for widths only; every operation on them stands under Machine/. -/

namespace Sys2Proof

/-- One byte, 0 to 255 (R12). -/
abbrev Byte := BitVec 8

/-- One SHA-256 word (R101). -/
abbrev Word32 := BitVec 32

/-- A 256-bit register or bus: `STATE`, `SEED`, a digest, a checksum, the seed field (R7, R14). -/
abbrev Reg256 := BitVec 256

/-- The 16-byte output as a 128-bit bus value (R7, R75). -/
abbrev Out128 := BitVec 128

/-- The 272-bit command word (R71). -/
abbrev CmdWord := BitVec 272

/-- The 132-bit response word (R75). -/
abbrev RespWord := BitVec 132

end Sys2Proof
end

