-- ==== Sys2Proof/Machine/Bytes.lean ====
section
/-! DEFINITION. Byte strings, bits of a byte, byte strings on buses, and hexadecimal text (00_scope.md rules
R12 to R14, 20_memory.md rules R52, R53, 30_encoding.md rules R83, R84). -/

namespace Sys2Proof.Machine

/-- `bit_at(b, j)`: bit 0 is the least significant bit (R13). -/
def bitAt (b : Byte) (j : Nat) : Bool := b.getLsbD j

/-- Byte `k` of a register: byte 0 is at the most significant end (R14). -/
def byteAt {w : Nat} (v : BitVec w) (k : Nat) : Byte := v.extractLsb' (w - 8 - 8 * k) 8

/-- The byte string a register holds, byte 0 first (R14). -/
def bytesOf {w : Nat} (v : BitVec w) : List Byte := (List.range (w / 8)).map (byteAt v)

/-- The register value of a byte string, byte 0 at the most significant end (R14). -/
def ofBytes (w : Nat) (bs : List Byte) : BitVec w :=
  bs.foldl (fun acc b => (acc <<< 8) ||| b.setWidth w) 0#w

/-- One lowercase hexadecimal digit (R12). -/
def hexDigit (d : Nat) : Char :=
  ['0', '1', '2', '3', '4', '5', '6', '7', '8', '9', 'a', 'b', 'c', 'd', 'e', 'f'].getD d '0'

/-- `hex(B)`: two digits per byte, high nibble first, byte 0 first (R12). -/
def hex (bs : List Byte) : List Char :=
  bs.flatMap fun b => [hexDigit (b.toNat / 16), hexDigit (b.toNat % 16)]

/-- The value of one lowercase hexadecimal digit (R12, R83). An uppercase digit is no digit here, DESIGN CHOICE
where R85 leaves the letter case open (log entry 24). -/
def unhexDigit (c : Char) : Option Nat :=
  if '0' ≤ c ∧ c ≤ '9' then some (c.toNat - '0'.toNat)
  else if 'a' ≤ c ∧ c ≤ 'f' then some (c.toNat - 'a'.toNat + 10)
  else none

/-- `unhex(s)`, the inverse of `hex` (R12); no value where the text is not pairs of digits. -/
def unhex : List Char → Option (List Byte)
  | [] => some []
  | [_] => none
  | hi :: lo :: rest => do
    let h ← unhexDigit hi
    let l ← unhexDigit lo
    let bs ← unhex rest
    return BitVec.ofNat 8 (16 * h + l) :: bs

end Sys2Proof.Machine
end

