-- ==== Sys2Proof/Syntax.lean ====
section
/-! DEFINITION. The operations of the block: one constructor for each of the 14 rows of opcode_table.json
(30_encoding.md rule R70), the two kinds of encoding a row can have, and the line syntax of command
sequences (rule R85). -/

namespace Sys2Proof

/-- One operation of the block. The four command rows carry the whole of the word's fields, the ignored
ones too (R71, R74), so that a word and its instruction determine each other. -/
inductive Instr where
  /-- `INIT cfg, seed`: command word, `op = 01` (R73, R162). -/
  | init (cfg : BitVec 6) (len : BitVec 8) (seed : Reg256)
  /-- `NEXT`: command word, `op = 10`; its three fields are ignored (R73, R74, R165). -/
  | next (cfg : BitVec 6) (len : BitVec 8) (seed : Reg256)
  /-- A word with the reserved `op = 00` (R74, R194). -/
  | reservedOp00 (cfg : BitVec 6) (len : BitVec 8) (seed : Reg256)
  /-- A word with the reserved `op = 11` (R74, R194). -/
  | reservedOp11 (cfg : BitVec 6) (len : BitVec 8) (seed : Reg256)
  /-- The micro-step of `PHASE = 010` (R130, R178). -/
  | ratchet
  /-- The micro-step of `PHASE = 011` (R141, R179). -/
  | sift
  /-- The micro-step of `PHASE = 100` (R150, R180). -/
  | fold
  /-- The micro-step of `PHASE = 000` (R175). -/
  | idleUninit
  /-- The micro-step of `PHASE = 001` (R176). -/
  | idleReady
  /-- The micro-step of `PHASE = 111` (R177). -/
  | idleFault
  /-- The sub-operation `VALIDATE(cfg, len, seed)`, not decoded (R120). -/
  | validate (cfg : BitVec 6) (len : BitVec 8) (seed : Reg256)
  /-- The sub-operation `COLLECT`, not decoded (R142). -/
  | collect
  /-- The sub-operation `SHA256(M)`, not decoded (R110). -/
  | sha256 (message : List Byte)
  /-- The reset input (R220). -/
  | reset
deriving DecidableEq, Repr

/-- What a row of the table is encoded in: a 272-bit command word, or the 3-bit value of `PHASE`
(R71, R78). The sub-operations and the reset input have neither (R70). -/
inductive Encoding where
  | command (w : CmdWord)
  | phase (code : BitVec 3)
deriving DecidableEq, Repr

/-- Why something is no encoding of an operation. -/
inductive DecodeError where
  /-- A byte string that is not 34 bytes long is no command word (R71, R87). -/
  | commandLength (bytes : Nat)
  /-- `PHASE` codes 101 and 110 select no step (R78, R181). -/
  | reservedPhase (code : BitVec 3)
deriving DecidableEq, Repr

/-- What the host does at the ports for one line of a command sequence (R77, R85). -/
inductive PortEvent where
  /-- The reset input is asserted and released. -/
  | reset
  /-- A command word is offered on the command port. -/
  | word (w : CmdWord)
deriving DecidableEq, Repr

/-- One line of a command sequence (R85). -/
inductive Line where
  | reset
  | init (cfg : BitVec 6) (seed : List Byte)
  | next
  /-- `NEXT xK`, the shorthand of the test files. -/
  | nextTimes (k : Nat)
  /-- `.word`, a raw command word. -/
  | word (w : CmdWord)
deriving DecidableEq, Repr

end Sys2Proof
end

