-- ==== Sys2Proof/WellFormed.lean ====
section
/-! DEFINITION. Which operations are well formed. Every field of a command has its width by its type; what
is left to check is the operand bound of `SHA256` (40_hash_sha256.md rule R110). -/

namespace Sys2Proof

/-- `SHA256` is defined for messages of fewer than `2^61` bytes (R110); every other operation is well
formed with every value of its fields (R74: no field value makes a word unacceptable to the decoder). -/
def wellFormed : Instr → Bool
  | .init _ _ _ => true
  | .next _ _ _ => true
  | .reservedOp00 _ _ _ => true
  | .reservedOp11 _ _ _ => true
  | .ratchet => true
  | .sift => true
  | .fold => true
  | .idleUninit => true
  | .idleReady => true
  | .idleFault => true
  | .validate _ _ _ => true
  | .collect => true
  | .sha256 message => decide (message.length < 2 ^ 61)
  | .reset => true

end Sys2Proof
end

