-- ==== Sys2Proof/Decode.lean ====
section
/-! DEFINITION. The decoder, total on every word and every byte string, rejecting by name; the encoder; reading and
assembling command lines (30_encoding.md rules R71 to R74, R78, R85, R87). -/

namespace Sys2Proof

/-- `op`, bits 271:270 (R71). -/
def opField (w : CmdWord) : BitVec 2 := w.extractLsb' 270 2
/-- `cfg`, bits 269:264 (R71). -/
def cfgField (w : CmdWord) : BitVec 6 := w.extractLsb' 264 6
/-- `len`, bits 263:256 (R71). -/
def lenField (w : CmdWord) : BitVec 8 := w.extractLsb' 256 8
/-- `seed`, bits 255:0 (R71). -/
def seedField (w : CmdWord) : Reg256 := w.extractLsb' 0 256

/-- The instruction of a command word. Every 272-bit word has one (R73, R74). -/
def decodeCommand (w : CmdWord) : Instr :=
  if opField w = 0b00#2 then .reservedOp00 (cfgField w) (lenField w) (seedField w)
  else if opField w = 0b01#2 then .init (cfgField w) (lenField w) (seedField w)
  else if opField w = 0b10#2 then .next (cfgField w) (lenField w) (seedField w)
  else .reservedOp11 (cfgField w) (lenField w) (seedField w)

/-- The micro-operation a value of `PHASE` selects (R78); 101 and 110 select none (R181). -/
def decodePhase (code : BitVec 3) : Except DecodeError Instr :=
  if code = 0b000#3 then .ok .idleUninit
  else if code = 0b001#3 then .ok .idleReady
  else if code = 0b010#3 then .ok .ratchet
  else if code = 0b011#3 then .ok .sift
  else if code = 0b100#3 then .ok .fold
  else if code = 0b111#3 then .ok .idleFault
  else .error (.reservedPhase code)

/-- The decoder. -/
def decode : Encoding → Except DecodeError Instr
  | .command w => .ok (decodeCommand w)
  | .phase code => decodePhase code

/-- The decoder on a byte string: a command word is 34 bytes, byte 0 first (R71, R87). -/
def decodeBytes (bs : List Byte) : Except DecodeError Instr :=
  if bs.length = 34 then .ok (decodeCommand (Machine.ofBytes 272 bs))
  else .error (.commandLength bs.length)

/-- A command word from its four fields, at bits 270, 264, 256 and 0 (R71). -/
def commandWord (op : BitVec 2) (cfg : BitVec 6) (len : BitVec 8) (seed : Reg256) : CmdWord :=
  op.setWidth 272 <<< 270 ||| cfg.setWidth 272 <<< 264 ||| len.setWidth 272 <<< 256 ||| seed.setWidth 272

/-- The encoder; a sub-operation and the reset input have no encoding (R70). -/
def encode : Instr → Option Encoding
  | .init cfg len seed => some (.command (commandWord 0b01 cfg len seed))
  | .next cfg len seed => some (.command (commandWord 0b10 cfg len seed))
  | .reservedOp00 cfg len seed => some (.command (commandWord 0b00 cfg len seed))
  | .reservedOp11 cfg len seed => some (.command (commandWord 0b11 cfg len seed))
  | .ratchet => some (.phase 0b010)
  | .sift => some (.phase 0b011)
  | .fold => some (.phase 0b100)
  | .idleUninit => some (.phase 0b000)
  | .idleReady => some (.phase 0b001)
  | .idleFault => some (.phase 0b111)
  | .validate _ _ _ => none
  | .collect => none
  | .sha256 _ => none
  | .reset => none

/-- The encoding an instruction of `nbits` table bits has: the rows of format PHASE are 3 bits wide and
the rows of format CMD 272; bits the table does not give are 0 (log entry 18). -/
def tableEncoding (nbits w : Nat) : Option Encoding :=
  if nbits = 0 then none
  else if nbits ≤ 8 then (if w < 8 then some (.phase (BitVec.ofNat 3 w)) else none)
  else if nbits ≤ 272 then (if w < 2 ^ 272 then some (.command (BitVec.ofNat 272 w)) else none)
  else none

/-- The instruction this decoder reads from an instruction whose bits are `w`, numbered as
opcode_table.json numbers them: the command word is one 272-bit word with bit 0 its least significant
bit, and its 34 bytes are laid out byte 0 (bits 271:264) first (R14, R71). -/
def decodeTableWord (nbits w : Nat) : Option Instr :=
  match tableEncoding nbits w with
  | some (.phase code) => (decodePhase code).toOption
  | some (.command cw) => (decodeBytes (Machine.bytesOf cw)).toOption
  | none => none

/-- The `len` operand the host states for a seed: lengths above 255 are sent as 255 (R72). -/
def seedLenOperand (seed : List Byte) : BitVec 8 := BitVec.ofNat 8 (min seed.length 255)

/-- The `seed` field the host sends: the leading 32 bytes, zero bytes after them (R72). -/
def seedOperand (seed : List Byte) : Reg256 :=
  Machine.ofBytes 256 ((seed ++ List.replicate 32 0).take 32)

/-- What the host does at the ports for one line of a command sequence (R72, R85). -/
def assemble : Line → List PortEvent
  | .reset => [.reset]
  | .init cfg seed => [.word (commandWord 0b01 cfg (seedLenOperand seed) (seedOperand seed))]
  | .next => [.word (commandWord 0b10 0 0 0)]
  | .nextTimes k => List.replicate k (.word (commandWord 0b10 0 0 0))
  | .word w => [.word w]

/-- What follows `pre` in `text`, where `text` begins with it. -/
def afterPrefix : List Char → List Char → Option (List Char)
  | [], text => some text
  | _ :: _, [] => none
  | p :: pre, c :: text => if p = c then afterPrefix pre text else none

/-- A text without the spaces around it. -/
def trimSpaces (text : List Char) : List Char :=
  ((text.dropWhile (· == ' ')).reverse.dropWhile (· == ' ')).reverse

/-- A number in decimal, of at least one digit. -/
def readDecimal (text : List Char) : Option Nat :=
  if text.isEmpty then none
  else text.foldl (fun acc c => acc.bind fun n =>
    if '0' ≤ c ∧ c ≤ '9' then some (10 * n + (c.toNat - '0'.toNat)) else none) (some 0)

/-- The operands of an `INIT` line: `cfg` in decimal, a comma, the seed in hexadecimal (R85). -/
def readInit (text : List Char) : Option Line :=
  match text.span (· != ',') with
  | (cfg, _ :: seed) => do
    let c ← readDecimal (trimSpaces cfg)
    let bytes ← Machine.unhex (trimSpaces seed)
    if c < 64 then some (.init (BitVec.ofNat 6 c) bytes) else none
  | (_, []) => none

/-- The operand of a `.word` line: 68 hexadecimal digits (R85). The rule does not state their letter case:
lowercase alone is read, DESIGN CHOICE (log entry 24). -/
def readWord (text : List Char) : Option Line := do
  let bytes ← Machine.unhex (trimSpaces text)
  if bytes.length = 34 then some (.word (Machine.ofBytes 272 bytes)) else none

/-- One line of a command sequence from its text; `;` starts a comment (R85). A text in none of the rule's
forms is no line. -/
def readLine (line : List Char) : Option Line :=
  let text := trimSpaces (line.takeWhile (· != ';'))
  if text = ['R', 'E', 'S', 'E', 'T'] then some .reset
  else if text = ['N', 'E', 'X', 'T'] then some .next
  else
    match afterPrefix ['N', 'E', 'X', 'T', ' ', 'x'] text with
    | some times => (readDecimal times).map .nextTimes
    | none =>
      match afterPrefix ['I', 'N', 'I', 'T', ' '] text with
      | some operands => readInit operands
      | none =>
        match afterPrefix ['.', 'w', 'o', 'r', 'd', ' '] text with
        | some digits => readWord digits
        | none => none

end Sys2Proof
end

