-- ==== Sys2Proof/Config.lean ====
section
/-! DEFINITION. What is fixed when the block is built (00_scope.md rules R7 to R11, 70_reset_and_hazards.md
rule R226) and the free values: the values the spec leaves unspecified (93_implementation_defined.md U10, U11). -/

namespace Sys2Proof.Config

/-- `STATE_LEN`, in bytes (R7). -/
def stateLen : Nat := 32
/-- `DIGEST_LEN`, in bytes (R7). -/
def digestLen : Nat := 32
/-- `SELECT_BITS`: how many accepted bits make one output (R7). -/
def selectBits : Nat := 256
/-- `OUT_LEN`, in bytes (R7). -/
def outLen : Nat := 16

/-- One entry of `REGISTRY`: the required seed length in bytes and the expected SHA-256 digest (R8, R9). -/
structure RegistryEntry where
  seedLen  : BitVec 8
  checksum : Reg256
deriving DecidableEq, Repr

/-- Registry entry 0, the reference configuration, fixed by the spec (R9, R125). -/
def entry0 : RegistryEntry :=
  { seedLen := 32
    checksum := 0x096412ca0482ab0f519bc0e4ded667475c45495047653a21aa11e2c7c578fa6f }

/-- The minimal configuration, `N_CFG = 1` (93_implementation_defined.md U5). -/
def defaultRegistry : List RegistryEntry := [entry0]

/-- The default `CTR_MAX`, `2^64 - 1` (R10). -/
def defaultCtrMax : Nat := 18446744073709551615

/-- What an integrator may configure as `REGISTRY`: 1 to 64 entries, entry 0 fixed, every `seed_len` 32
(R8, R9, R226). -/
def registryWf (r : List RegistryEntry) : Bool :=
  decide (r.length ≤ 64) && r.head? == some entry0 && r.all (fun e => e.seedLen == 32)

/-! Free values: nothing in Lean can evaluate them or prove what they are. A register's is applied to
`State.draws`, so that two unspecified values of one run need not be equal (log entry 3), a digest's to its
message. -/

/-- An unspecified content of `STATE`. -/
opaque freeState : Nat → Reg256
/-- An unspecified content of `COUNTER`, before the bound of R22 is applied. -/
opaque freeCounter : Nat → Nat
/-- An unspecified content of `SEED`. -/
opaque freeSeed : Nat → Reg256
/-- An unspecified content of `BITS`. -/
opaque freeBits : Nat → Reg256
/-- An unspecified content of `N`, 0 to 256 (R25). -/
opaque freeN : Nat → Fin 257
/-- An unspecified content of `IDX`, 0 to 31 (R26). -/
opaque freeIdx : Nat → Fin 32
/-- The digest of a message of `2^61` bytes or more, for which R110 states none (log entry 25). -/
opaque freeDigest : List Byte → Reg256

end Sys2Proof.Config
end

