-- ==== Sys2Proof/Machine/State.lean ====
section
/-! DEFINITION. The state of one instance of the block: the eight items of 10_state.md rule R20, the two
ports and the reset input (rule R31, 30_encoding.md rule R77), and four fields of the model's own, each
said to be so and logged. -/

namespace Sys2Proof.Machine

/-- The values of `PHASE` (R27). The reserved codes 101 and 110 are no values of it (R181, 93 U6). -/
inductive Phase where
  | uninit
  | ready
  | ratchet
  | sift
  | fold
  | fault
deriving DecidableEq, Repr

/-- The eight status codes that are ever produced (R76). -/
inductive Status where
  | ok
  | eChecksum
  | eSeedLength
  | eNotReady
  | eAlreadyInit
  | eIllegalCmd
  | eCounterExhausted
  | eFaulted
deriving DecidableEq, Repr

/-- One response: a status and the 16-byte output (R75). -/
structure Response where
  status : Status
  out    : Out128
deriving DecidableEq, Repr

/-- The value a sub-operation executed on its own hands back (log entry 11). -/
inductive SubResult where
  /-- No sub-operation has been executed on its own. -/
  | none
  /-- What `SHA256` returns (R110). -/
  | digest (d : Reg256)
  /-- What `VALIDATE` returns as `Ok(d)` (R120). -/
  | validated (d : Reg256)
  /-- The error a sub-operation raised (R120, R142). -/
  | rejected (e : Status)
  /-- The 256 bits `COLLECT` returns, in order of acceptance (R142). -/
  | collected (bits : List Bool)
deriving DecidableEq, Repr

/-- The two levels of description (R19): a step is one whole command, or one micro-step. -/
inductive Level where
  | transaction
  | micro
deriving DecidableEq, Repr

/-- The state. -/
structure State where
  /-- `PHASE`, 3 bits (R27). -/
  phase : Phase
  /-- `STATE`, 256 bits (R21). -/
  stateReg : Reg256
  /-- `COUNTER`, a value in `0 .. CTR_MAX` (R22). -/
  counter : Nat
  /-- `SEED`, 256 bits (R23). -/
  seed : Reg256
  /-- `BITS`, 256 one-bit entries (R24); entry `j` is read and written by `bitsRead`, `bitsWrite`. -/
  bits : Reg256
  /-- `N`, 0 to 256 (R25). -/
  n : Nat
  /-- `IDX`, 5 bits (R26). -/
  idx : Fin 32
  /-- `REGISTRY`, constant (R30). -/
  registry : List Config.RegistryEntry
  /-- `CTR_MAX`, constant (R10). -/
  ctrMax : Nat
  /-- The command port: the word the host presents (`cmd_valid`, `cmd_word`), if any (R77). -/
  cmd : Option CmdWord
  /-- The response port's one-word hold, `RESP` of R31 (`resp_valid`, `resp_word`). -/
  resp : Option Response
  /-- The response port's input `resp_ready` (R77). -/
  respReady : Bool
  /-- The reset input (R77, R220). -/
  resetIn : Bool
  /-- The model's own: the level at which `step` runs (log entry 1). -/
  level : Level
  /-- The model's own: the value a sub-operation executed on its own hands back (log entry 11). -/
  result : SubResult
  /-- The model's own: how many times free values have been drawn (log entry 3). -/
  draws : Nat
deriving DecidableEq, Repr

/-- Why the machine stops. -/
inductive Fault where
  /-- Raised by SIFT alone, with `N` at 256 or more, where the rule says "requires N < 256" (R141, R179)
  and gives no effect. Safe: no state reachable from reset has it (R182). -/
  | siftBitsFull
deriving DecidableEq, Repr

/-- Why an instruction has no meaning. -/
inductive Refusal where
  /-- Raised by an arm of `exec` for an instruction this model does not model yet; no arm does. Safe. -/
  | notModelled (mnemonic : String)
deriving DecidableEq, Repr

/-- The machine right after reset (R37, R220): `PHASE = UNINIT`, nothing pending on either port, the
registry as configured. The spec gives `STATE`, `COUNTER`, `SEED`, `BITS`, `N`, `IDX` no value; the zeros
here are the model's (log entry 2), as are the configured constants (log entry 15). -/
def State.reset : State :=
  { phase := .uninit
    stateReg := 0
    counter := 0
    seed := 0
    bits := 0
    n := 0
    idx := 0
    registry := Config.defaultRegistry
    ctrMax := Config.defaultCtrMax
    cmd := none
    resp := none
    respReady := false
    resetIn := false
    level := .transaction
    result := .none
    draws := 0 }

end Sys2Proof.Machine
end

