-- ==== Sys2Proof/Machine/Operands.lean ====
section
/-! DEFINITION. How operands are read and registers indexed: the codes of `PHASE` and of the statuses, the
response word, the counter's text, the bytes of `STATE`, the entries of `BITS` and `REGISTRY`
(10_state.md rule R27, 20_memory.md rules R51, R63, 30_encoding.md rules R75, R76, R80, R82). -/

namespace Sys2Proof.Machine

/-- The 3-bit code of a phase (R27). -/
def phaseCode : Phase → BitVec 3
  | .uninit => 0b000
  | .ready => 0b001
  | .ratchet => 0b010
  | .sift => 0b011
  | .fold => 0b100
  | .fault => 0b111

/-- The phase of a 3-bit code; 101 and 110 are reserved (R27). -/
def phaseOfCode (code : BitVec 3) : Option Phase :=
  if code = 0b000#3 then some .uninit
  else if code = 0b001#3 then some .ready
  else if code = 0b010#3 then some .ratchet
  else if code = 0b011#3 then some .sift
  else if code = 0b100#3 then some .fold
  else if code = 0b111#3 then some .fault
  else none

/-- The idle phases are `UNINIT`, `READY` and `FAULT`: no command in progress (R18, R27). -/
def phaseIdle : Phase → Bool
  | .uninit => true
  | .ready => true
  | .ratchet => false
  | .sift => false
  | .fold => false
  | .fault => true

/-- The 4-bit status codes (R76). -/
def statusCode : Status → BitVec 4
  | .ok => 0x0
  | .eChecksum => 0x1
  | .eSeedLength => 0x2
  | .eNotReady => 0x3
  | .eAlreadyInit => 0x4
  | .eIllegalCmd => 0x5
  | .eCounterExhausted => 0x6
  | .eFaulted => 0x7

/-- The 132-bit response word: status in bits 131:128, output in bits 127:0 (R75). -/
def responseWord (r : Response) : RespWord :=
  (statusCode r.status).setWidth 132 <<< 128 ||| r.out.setWidth 132

/-- The response written as 33 hexadecimal digits: the status digit, then `hex(out)` (R75, R84). -/
def responseText (r : Response) : List Char := hexDigit (statusCode r.status).toNat :: hex (bytesOf r.out)

/-- `dec`, with fuel for the number of digits. -/
def decDigits : Nat → Nat → List Byte
  | 0, _ => []
  | fuel + 1, c =>
    if c < 10 then [BitVec.ofNat 8 (0x30 + c)]
    else decDigits fuel (c / 10) ++ [BitVec.ofNat 8 (0x30 + c % 10)]

/-- `dec(c)`: the base-10 ASCII digits of the counter, most significant first (R80). -/
def dec (c : Nat) : List Byte := decDigits (c + 1) c

/-- The ratchet message `STATE || dec(COUNTER)` (R82, R134). -/
def ratchetMessage (st : Reg256) (c : Nat) : List Byte := bytesOf st ++ dec c

/-- `STATE[IDX]` (R51, R141). -/
def stateByte (s : State) : Byte := byteAt s.stateReg s.idx.val

/-- `BITS[j]` (R24, R51). Entry `j` stands at register bit `255 - j`, the order in which R155 writes the
file as 32 bytes (log entry 17). -/
def bitsRead (bits : Reg256) (j : Nat) : Bool := bits.getMsbD j

/-- `BITS[j] <- v`, for `j` at most 255 (R51, R63). -/
def bitsWrite (bits : Reg256) (j : Nat) (v : Bool) : Reg256 :=
  (bits &&& ~~~(BitVec.twoPow 256 (255 - j))) ||| (if v then BitVec.twoPow 256 (255 - j) else 0)

/-- `RegistryRead(cfg)`; no entry where `cfg >= N_CFG` (R16, R30). -/
def registryRead (registry : List Config.RegistryEntry) (cfg : BitVec 6) : Option Config.RegistryEntry :=
  registry[cfg.toNat]?

/-- `cmd_ready`: the phase is idle and no response waits to be taken (R77). -/
def cmdReady (s : State) : Bool := phaseIdle s.phase && s.resp.isNone

/-- The command word an idle step may accept: the one presented, if no response waits (R31, R77). -/
def offered (s : State) : Option CmdWord := if s.resp.isNone then s.cmd else none

end Sys2Proof.Machine
end

