-- ==== Sys2Proof/Machine/Flags.lean ====
section
/-! DEFINITION. The four named conditions of 10_state.md rule R29 and the selection functions of
43_bit_selector.md rule R140. The block has no flags register: each is recomputed whenever it is read. -/

namespace Sys2Proof.Machine

/-- `accept(b)`: bit 1 equals bit 2 (R140). -/
def acceptByte (b : Byte) : Bool := bitAt b 1 == bitAt b 2

/-- `selected(b)`: bit 0 (R140). -/
def selectedBit (b : Byte) : Bool := bitAt b 0

/-- The condition `accept` (R29). -/
def accept (s : State) : Bool := acceptByte (stateByte s)

/-- The condition `full` (R29). -/
def full (n : Nat) : Bool := n == Config.selectBits

/-- The condition `last` (R29). -/
def last (s : State) : Bool := s.idx == 31

/-- The condition `exhausted` (R29): for every value the register can hold (R22) this is
`COUNTER == CTR_MAX` (log entry 8). -/
def exhausted (s : State) : Bool := decide (s.ctrMax ≤ s.counter)

end Sys2Proof.Machine
end

