-- ==== Sys2Proof/Machine/Sha256.lean ====
section
/-! DEFINITION. The hash primitive SHA256 (40_hash_sha256.md rules R100 to R111). -/

namespace Sys2Proof.Machine

/-- `SHR(x, n)` (R102). -/
def shr (x : Word32) (n : Nat) : Word32 := x >>> n
/-- `ROTR(x, n)`, `0 < n < 32` (R102). -/
def rotr (x : Word32) (n : Nat) : Word32 := (x >>> n) ||| (x <<< (32 - n))
/-- `Ch` (R103). -/
def ch (x y z : Word32) : Word32 := (x &&& y) ^^^ (~~~x &&& z)
/-- `Maj` (R103). -/
def maj (x y z : Word32) : Word32 := (x &&& y) ^^^ (x &&& z) ^^^ (y &&& z)
/-- `BSIG0` (R103). -/
def bsig0 (x : Word32) : Word32 := rotr x 2 ^^^ rotr x 13 ^^^ rotr x 22
/-- `BSIG1` (R103). -/
def bsig1 (x : Word32) : Word32 := rotr x 6 ^^^ rotr x 11 ^^^ rotr x 25
/-- `SSIG0` (R103). -/
def ssig0 (x : Word32) : Word32 := rotr x 7 ^^^ rotr x 18 ^^^ shr x 3
/-- `SSIG1` (R103). -/
def ssig1 (x : Word32) : Word32 := rotr x 17 ^^^ rotr x 19 ^^^ shr x 10

/-- The rows of R104's table, each as one number: the row's first constant at its most significant end. -/
def constantRows : List Reg256 := [
  0x428a2f9871374491b5c0fbcfe9b5dba53956c25b59f111f1923f82a4ab1c5ed5,
  0xd807aa9812835b01243185be550c7dc372be5d7480deb1fe9bdc06a7c19bf174,
  0xe49b69c1efbe47860fc19dc6240ca1cc2de92c6f4a7484aa5cb0a9dc76f988da,
  0x983e5152a831c66db00327c8bf597fc7c6e00bf3d5a7914706ca635114292967,
  0x27b70a852e1b21384d2c6dfc53380d13650a7354766a0abb81c2c92e92722c85,
  0xa2bfe8a1a81a664bc24b8b70c76c51a3d192e819d6990624f40e3585106aa070,
  0x19a4c1161e376c082748774c34b0bcb5391c0cb34ed8aa4a5b9cca4f682e6ff3,
  0x748f82ee78a5636f84c878148cc7020890befffaa4506cebbef9a3f7c67178f2]

/-- The eight words of a 256-bit value, the most significant first (R101). -/
def wordsOfRow (row : Reg256) : List Word32 := (List.range 8).map fun k => row.extractLsb' (224 - 32 * k) 32

/-- The 64 round constants `K`, row by row (R104). -/
def roundConstants : List Word32 := constantRows.flatMap wordsOfRow

/-- A hash value `H0 .. H7`, or the eight working variables `a .. h` (R105, R108). -/
structure HashValue where
  a : Word32
  b : Word32
  c : Word32
  d : Word32
  e : Word32
  f : Word32
  g : Word32
  h : Word32
deriving DecidableEq, Repr

/-- The initial hash value (R105). -/
def initialHash : HashValue :=
  ⟨0x6a09e667, 0xbb67ae85, 0x3c6ef372, 0xa54ff53a, 0x510e527f, 0x9b05688c, 0x1f83d9ab, 0x5be0cd19⟩

/-- How many zero bytes the padding of an `L`-byte message has (R106). -/
def padZeros (L : Nat) : Nat := (119 - L % 64) % 64

/-- `LEN8`: the bit length as 8 bytes, most significant first (R106). From `2^61` bytes on the bit length does
not fit and its low 64 bits stand here, DESIGN CHOICE; `sha256` reads it for no such message (log entry 25). -/
def lengthBytes (L : Nat) : List Byte := bytesOf (BitVec.ofNat 64 (8 * L))

/-- The padded message (R106). -/
def padMessage (m : List Byte) : List Byte :=
  m ++ [0x80] ++ List.replicate (padZeros m.length) 0 ++ lengthBytes m.length

/-- The 32-bit words of a byte string, most significant byte first (R101). -/
def wordsOf : List Byte → List Word32
  | a :: b :: c :: d :: rest => (a ++ b ++ c ++ d : BitVec 32) :: wordsOf rest
  | _ => []

/-- `n` more words of the message schedule; the list has the newest word first, so `W[t-i]` is entry
`i - 1` (R107). -/
def extendSchedule : Nat → List Word32 → List Word32
  | 0, ws => ws
  | n + 1, ws =>
    extendSchedule n ((ssig1 (ws.getD 1 0) + ws.getD 6 0 + ssig0 (ws.getD 14 0) + ws.getD 15 0) :: ws)

/-- `W[0 .. 63]` of the 16 words of one block (R107). -/
def schedule (block : List Word32) : List Word32 := (extendSchedule 48 block.reverse).reverse

/-- One round of the compression (R108). -/
def hashRound (v : HashValue) (kw : Word32 × Word32) : HashValue :=
  let t1 := v.h + bsig1 v.e + ch v.e v.f v.g + kw.1 + kw.2
  let t2 := bsig0 v.a + maj v.a v.b v.c
  ⟨t1 + t2, v.a, v.b, v.c, v.d + t1, v.e, v.f, v.g⟩

/-- Word by word addition of two hash values (R108). -/
def addHash (x y : HashValue) : HashValue :=
  ⟨x.a + y.a, x.b + y.b, x.c + y.c, x.d + y.d, x.e + y.e, x.f + y.f, x.g + y.g, x.h + y.h⟩

/-- Compression of one block of 16 words (R108). -/
def compress (v : HashValue) (block : List Word32) : HashValue :=
  addHash v ((roundConstants.zip (schedule block)).foldl hashRound v)

/-- Compression of `nb` blocks in order (R110). -/
def compressBlocks : Nat → List Word32 → HashValue → HashValue
  | 0, _, v => v
  | nb + 1, ws, v => compressBlocks nb (ws.drop 16) (compress v (ws.take 16))

/-- The digest `H0 || ... || H7`, byte 0 at the most significant end (R109). -/
def digestOf (v : HashValue) : Reg256 := v.a ++ v.b ++ v.c ++ v.d ++ v.e ++ v.f ++ v.g ++ v.h

/-- The digest of a message within the bound of R110. -/
def digestOfMessage (m : List Byte) : Reg256 :=
  let ws := wordsOf (padMessage m)
  digestOf (compressBlocks (ws.length / 16) ws initialHash)

/-- `SHA256(M)` (R110), the one hash function of the block (R100). Of a message of `2^61` bytes or more, past
the rule's bound, the spec states no digest: a free value of the message, DESIGN CHOICE (log entry 25). -/
def sha256 (m : List Byte) : Reg256 :=
  if m.length < 2 ^ 61 then digestOfMessage m else Config.freeDigest m

end Sys2Proof.Machine
end

