-- ==== Sys2Proof/Machine/Ops.lean ====
section
/-! DEFINITION. The named operations the meanings share: responding, accepting a command, raising an error
(the block's one way of taking an exception, 60_exceptions.md rules R190, R198), the counter fault, the seed
gate, the ratchet, the selector, the folder, and reset. -/

namespace Sys2Proof.Machine

/-- `respond(status, out)`: one response on the response port (R16, R75). -/
def State.respond (s : State) (status : Status) (out : Out128) : State :=
  { s with resp := some ⟨status, out⟩ }

/-- Taking an exception: the command ends, the response carries the status with `out = 0`, and nothing is
saved, masked or switched (R164, R198). There is no return from one (R199). -/
def State.raise (s : State) (e : Status) : State := s.respond e 0

/-- The word on the command port has been accepted and is gone from it (R31, R77). -/
def State.accepted (s : State) : State := { s with cmd := none }

/-- The counter fault (R166): `PHASE <- FAULT` and the fatal status. -/
def State.counterFault (s : State) : State := { s with phase := .fault }.raise .eCounterExhausted

/-- `VALIDATE(cfg, len, seed)` (R120 to R122): length first, then checksum. Where `cfg >= N_CFG` the
registry is not read (R194; log entry 12). -/
def validate (registry : List Config.RegistryEntry) (cfg : BitVec 6) (len : BitVec 8) (seed : Reg256) :
    Except Status Reg256 :=
  match registryRead registry cfg with
  | none => .error .eIllegalCmd
  | some e =>
    if len ≠ e.seedLen then .error .eSeedLength
    else if sha256 (bytesOf seed) ≠ e.checksum then .error .eChecksum
    else .ok (sha256 (bytesOf seed))

/-- The four writes of a successful INIT, together with its response (R162). -/
def State.constructed (s : State) (seed d : Reg256) : State :=
  { s with seed := seed, stateReg := d, counter := 0, phase := .ready }.respond .ok 0

/-- INIT in `UNINIT`: the range of `cfg`, then VALIDATE, then the construction (R162, R175, R195). -/
def State.construct (s : State) (cfg : BitVec 6) (len : BitVec 8) (seed : Reg256) : State :=
  if s.registry.length ≤ cfg.toNat then s.raise .eIllegalCmd
  else
    match validate s.registry cfg len seed with
    | .error e => s.raise e
    | .ok d => s.constructed seed d

/-- One ratchet step of the pair `(STATE, COUNTER)`: the old counter is hashed (R130, R132). -/
def ratchetHash (st : Reg256) (c : Nat) : Reg256 := sha256 (ratchetMessage st c)

/-- `RATCHET` (R130): `STATE`, `COUNTER` and `IDX` together. -/
def State.ratcheted (s : State) : State :=
  { s with stateReg := ratchetHash s.stateReg s.counter, counter := s.counter + 1, idx := 0 }

/-- `SIFT`'s writes of `BITS` and `N` (R141). -/
def State.sifted (s : State) : State :=
  if accept s then { s with bits := bitsWrite s.bits s.n (selectedBit (stateByte s)), n := s.n + 1 }
  else s

/-- Where the FSM goes after a byte has been examined: the test for 256 bits comes first (R179). -/
def State.afterSift (s : State) : State :=
  if full s.n then { s with phase := .fold }
  else if last s then { s with phase := .ratchet }
  else { s with idx := s.idx + 1 }

/-- Output bit `i` of the fold, of a file of 256 bits given by its entries (R150). -/
def foldBit (bit : Nat → Bool) (i : Nat) : Bool := bit i ^^ bit (i + 128)

/-- `out[k]`: eight output bits, the first at weight 128 (R150, R151). -/
def foldByte (bit : Nat → Bool) (k : Nat) : Byte :=
  BitVec.ofNat 8 (((List.range 8).map fun j => (foldBit bit (8 * k + j)).toNat * 2 ^ (7 - j)).sum)

/-- `fold(bits)`: the 16 bytes `out[0 .. 15]` as a bus value (R14, R150). -/
def foldBits (bit : Nat → Bool) : Out128 := ofBytes 128 ((List.range 16).map (foldByte bit))

/-- How COLLECT ends (R142). -/
inductive Collected where
  /-- 256 bits, with the new state and counter. -/
  | filled (bits : List Bool) (st : Reg256) (c : Nat)
  /-- The counter was exhausted, with the state and counter of that moment (R166). -/
  | exhausted (st : Reg256) (c : Nat)
deriving DecidableEq, Repr

/-- The bytes of one entropy block, in ascending order, stopping at 256 bits (R142 to R144). -/
def scanBlock : List Byte → List Bool → List Bool
  | [], bits => bits
  | b :: rest, bits =>
    if bits.length = Config.selectBits then bits
    else scanBlock rest (if acceptByte b then bits ++ [selectedBit b] else bits)

/-- The loop of COLLECT, with `fuel = CTR_MAX - COUNTER` ratchet steps left before the counter is
exhausted (R142, R166, R171). -/
def collectLoop : Nat → Reg256 → Nat → List Bool → Collected
  | 0, st, c, bits => if bits.length < Config.selectBits then .exhausted st c else .filled bits st c
  | fuel + 1, st, c, bits =>
    if bits.length < Config.selectBits then
      collectLoop fuel (ratchetHash st c) (c + 1) (scanBlock (bytesOf (ratchetHash st c)) bits)
    else .filled bits st c

/-- `COLLECT` (R142), from `STATE` and `COUNTER`, with no bits collected. -/
def collect (ctrMax : Nat) (st : Reg256) (c : Nat) : Collected := collectLoop (ctrMax - c) st c []

/-- `BITS`, `N` and `IDX` after a collection that is one atomic step, for which they do not exist: free
values (R20, R38, 93 U11; log entry 13). -/
def State.forgetTransients (s : State) : State :=
  { s with
    bits := Config.freeBits s.draws
    n := (Config.freeN s.draws).val
    idx := Config.freeIdx s.draws
    draws := s.draws + 1 }

/-- The effect of `RESET` (R220): `PHASE <- UNINIT`; `STATE`, `COUNTER`, `SEED`, `BITS`, `N`, `IDX` become
unspecified (free values, `COUNTER` within R22's bound; log entry 3); no response is pending; the reset
input has been taken (log entry 6). -/
def State.afterReset (s : State) : State :=
  { s with
    phase := .uninit
    stateReg := Config.freeState s.draws
    counter := Config.freeCounter s.draws % (s.ctrMax + 1)
    seed := Config.freeSeed s.draws
    bits := Config.freeBits s.draws
    n := (Config.freeN s.draws).val
    idx := Config.freeIdx s.draws
    resp := none
    resetIn := false
    result := .none
    draws := s.draws + 1 }

end Sys2Proof.Machine
end

