-- ==== Sys2Proof/Machine/Commands.lean ====
section
/-! DEFINITION. The command words at the transaction level: INIT, NEXT and the reserved words
(45_stream_generator_fsm.md rules R161 to R171, 60_exceptions.md rules R190 to R200). A command offered
while the command port is not ready is not accepted and waits (R60, R77; log entry 7). -/

namespace Sys2Proof.Machine

/-- INIT, once accepted (R162). The tests of the phase come before the operands (R195). -/
def State.initCommand (s : State) (cfg : BitVec 6) (len : BitVec 8) (seed : Reg256) : State :=
  if s.phase = .fault then s.raise .eFaulted
  else if s.phase = .ready then s.raise .eAlreadyInit
  else s.construct cfg len seed

/-- The meaning of `INIT cfg, seed` (R162, R163). -/
def execInit (cfg : BitVec 6) (len : BitVec 8) (seed : Reg256) (s : State) :
    Host.Outcome State Fault Refusal :=
  if cmdReady s then .next (s.accepted.initCommand cfg len seed) else .next s

/-- What NEXT does once COLLECT has ended (R165, R166). -/
def State.finishNext (s : State) : Collected → State
  | .filled bits st c =>
    { s.forgetTransients with stateReg := st, counter := c }.respond .ok
      (foldBits fun j => bits.getD j false)
  | .exhausted st c => { s.forgetTransients with stateReg := st, counter := c }.counterFault

/-- NEXT, once accepted (R165). -/
def State.nextCommand (s : State) : State :=
  if s.phase = .fault then s.raise .eFaulted
  else if s.phase = .uninit then s.raise .eNotReady
  else s.finishNext (collect s.ctrMax s.stateReg s.counter)

/-- The meaning of `NEXT` (R165 to R171); its word's fields are ignored (R74). -/
def execNext (s : State) : Host.Outcome State Fault Refusal :=
  if cmdReady s then .next s.accepted.nextCommand else .next s

/-- The meaning of a word with `op = 00`: `E_ILLEGAL_CMD` in every phase (R74, R194). -/
def execReservedOp00 (s : State) : Host.Outcome State Fault Refusal :=
  if cmdReady s then .next (s.accepted.raise .eIllegalCmd) else .next s

/-- The meaning of a word with `op = 11`: `E_ILLEGAL_CMD` in every phase (R74, R194). -/
def execReservedOp11 (s : State) : Host.Outcome State Fault Refusal :=
  if cmdReady s then .next (s.accepted.raise .eIllegalCmd) else .next s

end Sys2Proof.Machine
end

