-- ==== Sys2Proof/Machine/IdleSteps.lean ====
section
/-! DEFINITION. The micro-steps of the idle phases: each waits for a command word and dispatches it on its
`op` field (45_stream_generator_fsm.md rules R174 to R177). With no word to accept the step waits: nothing
changes (log entry 21). -/

namespace Sys2Proof.Machine

/-- A word whose `op` is 00 or 11 (R74). -/
def reservedOp (w : CmdWord) : Bool := opField w == 0b00#2 || opField w == 0b11#2

/-- What the step of `PHASE = UNINIT` does with a word (R175). -/
def State.uninitDispatch (s : State) (w : CmdWord) : State :=
  if reservedOp w then s.raise .eIllegalCmd
  else if opField w = 0b10#2 then s.raise .eNotReady
  else s.construct (cfgField w) (lenField w) (seedField w)

/-- What the step of `PHASE = READY` does with a word: a NEXT is accepted and has no response yet (R176). -/
def State.readyDispatch (s : State) (w : CmdWord) : State :=
  if reservedOp w then s.raise .eIllegalCmd
  else if opField w = 0b01#2 then s.raise .eAlreadyInit
  else { s with n := 0, phase := .ratchet }

/-- What the step of `PHASE = FAULT` does with a word (R177). -/
def State.faultDispatch (s : State) (w : CmdWord) : State :=
  if reservedOp w then s.raise .eIllegalCmd else s.raise .eFaulted

/-- The step in `PHASE = UNINIT` (R175). -/
def execIdleUninit (s : State) : Host.Outcome State Fault Refusal :=
  match offered s with
  | none => .next s
  | some w => .next (s.accepted.uninitDispatch w)

/-- The step in `PHASE = READY` (R176). -/
def execIdleReady (s : State) : Host.Outcome State Fault Refusal :=
  match offered s with
  | none => .next s
  | some w => .next (s.accepted.readyDispatch w)

/-- The step in `PHASE = FAULT` (R177). -/
def execIdleFault (s : State) : Host.Outcome State Fault Refusal :=
  match offered s with
  | none => .next s
  | some w => .next (s.accepted.faultDispatch w)

end Sys2Proof.Machine
end

