-- ==== Sys2Proof/Machine/MicroSteps.lean ====
section
/-! DEFINITION. The micro-steps of the busy phases: RATCHET, SIFT and FOLD
(45_stream_generator_fsm.md rules R178 to R180). -/

namespace Sys2Proof.Machine

/-- The step in `PHASE = RATCHET`: the counter fault, or a ratchet step (R130, R166, R178). -/
def execRatchet (s : State) : Host.Outcome State Fault Refusal :=
  if exhausted s then .next s.counterFault
  else .next { s.ratcheted with phase := .sift }

/-- The step in `PHASE = SIFT`: one byte of `STATE` (R141, R179). The rule requires `N < 256`. -/
def execSift (s : State) : Host.Outcome State Fault Refusal :=
  if s.n < Config.selectBits then .next s.sifted.afterSift else .fault .siftBitsFull

/-- The step in `PHASE = FOLD` (R150, R180). -/
def execFold (s : State) : Host.Outcome State Fault Refusal :=
  .next ({ s with phase := .ready }.respond .ok (foldBits (bitsRead s.bits)))

end Sys2Proof.Machine
end

