-- ==== Sys2Proof/Machine/ResetInput.lean ====
section
/-! DEFINITION. The reset input (70_reset_and_hazards.md rules R220 to R224). -/

namespace Sys2Proof.Machine

/-- `RESET`, in any phase; no response is emitted (R220, R221). -/
def execReset (s : State) : Host.Outcome State Fault Refusal := .next s.afterReset

end Sys2Proof.Machine
end

