-- ==== Sys2Proof/Machine/SubOps.lean ====
section
/-! DEFINITION. The sub-operations VALIDATE, COLLECT and SHA256 executed on their own
(40_hash_sha256.md rule R110, 41_seed_store.md rule R120, 43_bit_selector.md rule R142). Inside INIT and
NEXT they are invoked as the shared operations `validate`, `collect` and `sha256`; here the value they
return is handed back in the model's own field `result` (log entry 11). -/

namespace Sys2Proof.Machine

/-- The value VALIDATE hands back. -/
def validateResult : Except Status Reg256 → SubResult
  | .ok d => .validated d
  | .error e => .rejected e

/-- `VALIDATE(cfg, len, seed)`: state written, none (R120). -/
def execValidate (cfg : BitVec 6) (len : BitVec 8) (seed : Reg256) (s : State) :
    Host.Outcome State Fault Refusal :=
  .next { s with result := validateResult (validate s.registry cfg len seed) }

/-- What COLLECT writes: `STATE` and `COUNTER`, and in the counter fault `PHASE` and the response
(R142, R166). -/
def State.finishCollect (s : State) : Collected → State
  | .filled bits st c =>
    { s.forgetTransients with stateReg := st, counter := c, result := .collected bits }
  | .exhausted st c =>
    { s.forgetTransients with
      stateReg := st, counter := c, result := .rejected .eCounterExhausted }.counterFault

/-- `COLLECT` (R142). -/
def execCollect (s : State) : Host.Outcome State Fault Refusal :=
  .next (s.finishCollect (collect s.ctrMax s.stateReg s.counter))

/-- `SHA256(M)`: reads no state, writes no state (R110). -/
def execSha256 (message : List Byte) (s : State) : Host.Outcome State Fault Refusal :=
  .next { s with result := .digest (sha256 message) }

end Sys2Proof.Machine
end

