-- ==== Sys2Proof/Machine/Dispatch.lean ====
section
/-! DEFINITION. One arm per constructor of Instr, in the order of opcode_table.json. -/

namespace Sys2Proof.Machine

def exec (i : Instr) (s : State) : Host.Outcome State Fault Refusal :=
  match i with
  | .init cfg len seed => Sys2Proof.Machine.execInit cfg len seed s
  | .next _ _ _ => Sys2Proof.Machine.execNext s
  | .reservedOp00 _ _ _ => Sys2Proof.Machine.execReservedOp00 s
  | .reservedOp11 _ _ _ => Sys2Proof.Machine.execReservedOp11 s
  | .ratchet => Sys2Proof.Machine.execRatchet s
  | .sift => Sys2Proof.Machine.execSift s
  | .fold => Sys2Proof.Machine.execFold s
  | .idleUninit => Sys2Proof.Machine.execIdleUninit s
  | .idleReady => Sys2Proof.Machine.execIdleReady s
  | .idleFault => Sys2Proof.Machine.execIdleFault s
  | .validate cfg len seed => Sys2Proof.Machine.execValidate cfg len seed s
  | .collect => Sys2Proof.Machine.execCollect s
  | .sha256 message => Sys2Proof.Machine.execSha256 message s
  | .reset => Sys2Proof.Machine.execReset s

end Sys2Proof.Machine
end

