-- ==== Sys2Proof/Machine/Ports.lean ====
section
/-! DEFINITION. The ports: which instruction the next step runs, the taking of a response, and what the host
does at the ports (30_encoding.md rules R77, R78, R85, 70_reset_and_hazards.md rule R233). -/

namespace Sys2Proof.Machine

/-- The micro-operation `PHASE` selects (R78). -/
def fetchMicro (s : State) : Option Instr := (decode (.phase (phaseCode s.phase))).toOption

/-- The command on the command port. -/
def fetchCommand (s : State) : Option Instr := s.cmd.bind fun w => (decode (.command w)).toOption

/-- The instruction the next step runs. At the transaction level an idle block runs the command presented,
whole (R164); at the micro-step level, and in a busy phase at either, `PHASE` selects the step (R78, R174). -/
def fetch (s : State) : Option Instr :=
  match s.level with
  | .micro => fetchMicro s
  | .transaction => if phaseIdle s.phase then fetchCommand s else fetchMicro s

/-- While a response waits, the block accepts nothing; the host takes it when it drives `resp_ready`
(R77, R233; log entry 5). -/
def State.waitForTake (s : State) : State := if s.respReady then { s with resp := none } else s

/-- What the host does at the ports (R77, R85). A word driven while an earlier one is still presented takes its
place, DESIGN CHOICE: the spec gives that host no behaviour (93 U15; log entry 23). -/
def State.drive (s : State) : PortEvent → State
  | .reset => { s with resetIn := true }
  | .word w => { s with cmd := some w }

/-- What the step fetches and runs once `e` stands where it fetches: a command word on the port of an idle
block at the transaction level, or a value of `PHASE` at the micro-step level, with reset not asserted and
no response waiting. -/
def State.withEncoding (s : State) : Encoding → State
  | .command w =>
    { s with
      cmd := some w
      level := .transaction
      phase := if phaseIdle s.phase then s.phase else .ready
      resp := none
      resetIn := false }
  | .phase code =>
    { s with
      level := .micro
      phase := (phaseOfCode code).getD s.phase
      resp := none
      resetIn := false }

end Sys2Proof.Machine
end

