-- ==== Sys2Proof/Machine/Step.lean ====
section
/-! DEFINITION. One step of the machine: reset wins (60_exceptions.md rule R203), then a waiting response is
held until it is taken (70_reset_and_hazards.md rule R233), then the fetched instruction runs; with no
command to run the block waits (60_exceptions.md rule R206). -/

namespace Sys2Proof.Machine

/-- One step. -/
def step (s : State) : Host.Outcome State Fault Refusal :=
  if s.resetIn then exec .reset s
  else
    match s.resp with
    | some _ => .next s.waitForTake
    | none =>
      match fetch s with
      | some i => exec i s
      | none => .next s

/-- `s` with an instruction of the opcode table where `step` fetches its next one. -/
def State.withFetchWord (s : State) (nbits w : Nat) : State :=
  match tableEncoding nbits w with
  | some e => s.withEncoding e
  | none => s

end Sys2Proof.Machine
end

