-- ==== Sys2Proof/Safety.lean ====
section
/-! DEFINITION. The terms the statements use: the hash chain, the accepted bits of successive entropy
blocks, the status a command reports, the invariant of reachable states, and which states a host cannot
tell apart. None of these is used by the machine. -/

namespace Sys2Proof.Safety

open Sys2Proof.Machine

/-- `S_k`: `S_0 = SHA256(seed)`, `S_(k+1) = SHA256(S_k || dec(k))` (R35). -/
def chain (seed : Reg256) : Nat → Reg256
  | 0 => sha256 (bytesOf seed)
  | k + 1 => ratchetHash (chain seed k) k

/-- The entropy blocks of the next `m` ratchet steps from `(st, c)`, in order (R131, R144). -/
def entropyBlocks (st : Reg256) (c : Nat) : Nat → List Reg256
  | 0 => []
  | m + 1 => ratchetHash st c :: entropyBlocks (ratchetHash st c) (c + 1) m

/-- `STATE` after `m` ratchet steps from `(st, c)` (R130). -/
def stateAfter (st : Reg256) (c : Nat) : Nat → Reg256
  | 0 => st
  | m + 1 => stateAfter (ratchetHash st c) (c + 1) m

/-- The bits a whole entropy block contributes, in order, with no cut (R140, R144). -/
def blockBits (block : Reg256) : List Bool := ((bytesOf block).filter acceptByte).map selectedBit

/-- The accepted bits of the next `m` entropy blocks, with no cut (R173). -/
def acceptedBits (st : Reg256) (c m : Nat) : List Bool := (entropyBlocks st c m).flatMap blockBits

/-- The accepted bits left before the counter is exhausted: those of `CTR_MAX - COUNTER` blocks (R171). -/
def bitsBeforeExhaustion (s : State) : List Bool := acceptedBits s.stateReg s.counter (s.ctrMax - s.counter)

/-- The status of an INIT in `UNINIT`: items 4, 5, 6 and 8 of the priority list (R195). -/
def initStatus (s : State) (cfg : BitVec 6) (len : BitVec 8) (seed : Reg256) : Status :=
  match s.registry[cfg.toNat]? with
  | none => .eIllegalCmd
  | some e =>
    if len ≠ e.seedLen then .eSeedLength
    else if sha256 (bytesOf seed) ≠ e.checksum then .eChecksum
    else .ok

/-- The one status an accepted command reports: the first that applies, in the order of R195. Of an
operation that no command word stands for (`isCommand` is false) it says nothing. -/
def commandStatus (s : State) : Instr → Status
  | .init cfg len seed =>
    if s.phase = .fault then .eFaulted
    else if s.phase = .ready then .eAlreadyInit
    else initStatus s cfg len seed
  | .next _ _ _ =>
    if s.phase = .fault then .eFaulted
    else if s.phase = .uninit then .eNotReady
    else if (bitsBeforeExhaustion s).length < 256 then .eCounterExhausted
    else .ok
  | .reservedOp00 _ _ _ => .eIllegalCmd
  | .reservedOp11 _ _ _ => .eIllegalCmd
  | .ratchet => .eIllegalCmd
  | .sift => .eIllegalCmd
  | .fold => .eIllegalCmd
  | .idleUninit => .eIllegalCmd
  | .idleReady => .eIllegalCmd
  | .idleFault => .eIllegalCmd
  | .validate _ _ _ => .eIllegalCmd
  | .collect => .eIllegalCmd
  | .sha256 _ => .eIllegalCmd
  | .reset => .eIllegalCmd

/-- `k` steps, stopping at the first fault or refusal (`Host.Core.run` of this machine). -/
def run : Nat → State → Host.Outcome State Fault Refusal
  | 0, s => .next s
  | k + 1, s =>
    match step s with
    | .next t => run k t
    | .fault r => .fault r
    | .refused r => .refused r

/-- The operations a command word can stand for (R70). -/
def isCommand : Instr → Bool
  | .init _ _ _ => true
  | .next _ _ _ => true
  | .reservedOp00 _ _ _ => true
  | .reservedOp11 _ _ _ => true
  | .ratchet => false
  | .sift => false
  | .fold => false
  | .idleUninit => false
  | .idleReady => false
  | .idleFault => false
  | .validate _ _ _ => false
  | .collect => false
  | .sha256 _ => false
  | .reset => false

/-- A busy phase: a NEXT is in progress (R27). -/
def busy (s : State) : Bool := !phaseIdle s.phase

/-- The block has been built as R9, R10 and R226 ask. -/
structure Configured (s : State) : Prop where
  registry : Config.registryWf s.registry = true
  ctrMax : 1 ≤ s.ctrMax

/-- The invariant of the states reachable from reset (R34, R35, R75, R182, R197). -/
structure Inv (s : State) : Prop where
  configured : Configured s
  /-- The chain's closed form (R35, R182 (e)); it holds of the values kept in `FAULT` too (R197). -/
  chain : s.phase ≠ .uninit → s.stateReg = Safety.chain s.seed s.counter ∧ s.counter ≤ s.ctrMax
  /-- The seed has passed the gate (R123). -/
  gate : s.phase ≠ .uninit → ∃ e ∈ s.registry, sha256 (bytesOf s.seed) = e.checksum
  /-- The counter bound has been reached in `FAULT` (R166). -/
  fault : s.phase = .fault → s.counter = s.ctrMax
  /-- R182 (a) and (c). -/
  collecting : s.phase = .ratchet ∨ s.phase = .sift → s.n ≤ 255
  /-- R182 (b). -/
  folding : s.phase = .fold → s.n = 256
  /-- No response waits while a NEXT is in progress (R31, R60). -/
  silent : busy s = true → s.resp = none
  /-- An error response carries no output (R75). -/
  clean : ∀ r, s.resp = some r → r.status ≠ .ok → r.out = 0
  /-- No step hands a sub-operation's value on (R31). -/
  wire : s.result = .none

/-- Two states no host can tell apart by any commands: they agree on the ports, on `PHASE` and on the
constants, and on each data register where a rule may still read it before it is written (R36, R38; 93
U10, U11). `SEED` is read by nothing (R23). -/
structure SameToHost (s t : State) : Prop where
  phase : s.phase = t.phase
  registry : s.registry = t.registry
  ctrMax : s.ctrMax = t.ctrMax
  cmd : s.cmd = t.cmd
  resp : s.resp = t.resp
  respReady : s.respReady = t.respReady
  resetIn : s.resetIn = t.resetIn
  level : s.level = t.level
  /-- `STATE` and `COUNTER` matter in `READY` and in the busy phases. -/
  pair : s.phase ≠ .uninit → s.phase ≠ .fault → s.stateReg = t.stateReg ∧ s.counter = t.counter
  /-- `N` and the entries of `BITS` below it matter in the busy phases. -/
  held : busy s = true → s.n = t.n ∧ ∀ j < s.n, bitsRead s.bits j = bitsRead t.bits j
  /-- `IDX` matters in `SIFT`. -/
  idx : s.phase = .sift → s.idx = t.idx
  /-- FOLD reads all 256 entries. -/
  all : s.phase = .fold → ∀ j < 256, bitsRead s.bits j = bitsRead t.bits j

end Sys2Proof.Safety
end

