-- ==== Sys2Proof/Certificates/Slice0/Obligations.lean ====
section
/-! DEFINITION. The statements for the provers. Each docstring cites the rule or the section of spec/ it
rests on; OBLIGATIONS.json lists them in this order. -/

open Sys2Proof Sys2Proof.Machine Sys2Proof.Safety

/-! ### Encodings (30_encoding.md) -/

/-- Every operation that has an encoding is read back from it, with every value of every field
(R71, R73, R78). -/
def Obligations.DecodeReadsWhatEncodeWrites : Prop :=
  ∀ (i : Instr) (e : Encoding), encode i = some e → decode e = .ok i

/-- An encoding determines its operation and nothing else encodes it: no bit of a command word is dropped,
the ignored fields of R74 included. -/
def Obligations.EncodeWritesWhatDecodeReads : Prop :=
  ∀ (e : Encoding) (i : Instr), decode e = .ok i → encode i = some e

/-- R73: a word is the command of a row when `w & mask == match`; the operands are the fields of R71. -/
def Obligations.CommandWordsMatchTheirRows : Prop :=
  ∀ w : CmdWord,
    (w &&& (0xc0#272 <<< 264) = 0x40#272 <<< 264 ↔
      decodeCommand w = .init (w.extractLsb' 264 6) (w.extractLsb' 256 8) (w.extractLsb' 0 256)) ∧
    (w &&& (0xc0#272 <<< 264) = 0x80#272 <<< 264 ↔
      decodeCommand w = .next (w.extractLsb' 264 6) (w.extractLsb' 256 8) (w.extractLsb' 0 256)) ∧
    (w &&& (0xc0#272 <<< 264) = 0#272 ↔
      decodeCommand w = .reservedOp00 (w.extractLsb' 264 6) (w.extractLsb' 256 8) (w.extractLsb' 0 256)) ∧
    (w &&& (0xc0#272 <<< 264) = 0xc0#272 <<< 264 ↔
      decodeCommand w = .reservedOp11 (w.extractLsb' 264 6) (w.extractLsb' 256 8) (w.extractLsb' 0 256))

/-- A few words written out in the spec (30_encoding.md R86, 95_test_vectors.md V17) decode to what they
stand for. -/
def Obligations.WrittenWordsDecode : Prop :=
  decode (.command 0x40200000000000000000a8f4979b77e3f93fa8f4979b77e3f93fa8f4979b77e3f93f) =
      .ok (.init 0 32 0x0000000000000000a8f4979b77e3f93fa8f4979b77e3f93fa8f4979b77e3f93f) ∧
  decode (.command 0x80000000000000000000000000000000000000000000000000000000000000000000) =
      .ok (.next 0 0 0) ∧
  decode (.command 0x00200000000000000000a8f4979b77e3f93fa8f4979b77e3f93fa8f4979b77e3f93f) =
      .ok (.reservedOp00 0 32 0x0000000000000000a8f4979b77e3f93fa8f4979b77e3f93fa8f4979b77e3f93f) ∧
  decode (.command 0xc0200000000000000000a8f4979b77e3f93fa8f4979b77e3f93fa8f4979b77e3f93f) =
      .ok (.reservedOp11 0 32 0x0000000000000000a8f4979b77e3f93fa8f4979b77e3f93fa8f4979b77e3f93f) ∧
  decode (.phase 0b010) = .ok .ratchet ∧ decode (.phase 0b011) = .ok .sift ∧
  decode (.phase 0b100) = .ok .fold ∧ decode (.phase 0b000) = .ok .idleUninit ∧
  decode (.phase 0b001) = .ok .idleReady ∧ decode (.phase 0b111) = .ok .idleFault ∧
  decode (.phase 0b101) = .error (.reservedPhase 0b101) ∧
  decode (.phase 0b110) = .error (.reservedPhase 0b110)

/-- The 34 bytes of a command word, byte 0 first, carry the whole word, and byte `k` is bits
`271 - 8k : 264 - 8k` of it (00_scope.md R14, 30_encoding.md R71). -/
def Obligations.CommandBytesCarryTheWord : Prop :=
  ∀ w : CmdWord,
    decodeBytes (bytesOf w) = .ok (decodeCommand w) ∧
    ∀ k < 34, (bytesOf w)[k]? = some (w.extractLsb' (264 - 8 * k) 8)

/-- The assembly of `INIT cfg, seed` for a seed of any length (30_encoding.md R72, R85): `len` is the
smaller of the length and 255, and the field holds the leading bytes and zeros after them. -/
def Obligations.InitLineAssemblesItsSeed : Prop :=
  ∀ (cfg : BitVec 6) (seed : List Byte), ∃ w field,
    assemble (.init cfg seed) = [.word w] ∧
    decodeCommand w = .init cfg (BitVec.ofNat 8 (min seed.length 255)) field ∧
    ∀ k < 32, byteAt field k = seed.getD k 0

/-- R80: `dec(c)` is the decimal text of `c`, most significant digit first, with no leading zero. -/
def Obligations.CounterTextIsDecimal : Prop :=
  ∀ c : Nat,
    dec c = (if c < 10 then [BitVec.ofNat 8 (0x30 + c)]
      else dec (c / 10) ++ [BitVec.ofNat 8 (0x30 + c % 10)]) ∧
    (dec c).foldl (fun v b => 10 * v + (b.toNat - 0x30)) 0 = c ∧
    (∀ b ∈ dec c, 0x30 ≤ b.toNat ∧ b.toNat ≤ 0x39) ∧
    ((dec c).head? = some 0x30 → c = 0) ∧ dec 0 = [0x30]

/-- The 132-bit response word holds the status in bits 131:128 and the output in bits 127:0, no two
responses share a word, and the eight statuses have their codes (30_encoding.md R75, R76). -/
def Obligations.ResponseWordHoldsStatusAndOutput : Prop :=
  (∀ r : Response, (responseWord r).extractLsb' 128 4 = statusCode r.status ∧
    (responseWord r).extractLsb' 0 128 = r.out) ∧
  (∀ r r' : Response, responseWord r = responseWord r' → r = r') ∧
  statusCode .ok = 0x0 ∧ statusCode .eChecksum = 0x1 ∧ statusCode .eSeedLength = 0x2 ∧
  statusCode .eNotReady = 0x3 ∧ statusCode .eAlreadyInit = 0x4 ∧ statusCode .eIllegalCmd = 0x5 ∧
  statusCode .eCounterExhausted = 0x6 ∧ statusCode .eFaulted = 0x7

/-! ### The step, the invariant, and the two levels -/

/-- With no reset and no response waiting, the step runs the instruction decoded from what it fetches: the
command word presented to an idle block at the transaction level, else the step `PHASE` selects
(30_encoding.md R78, 45_stream_generator_fsm.md R164, R174). -/
def Obligations.StepRunsTheDecodedInstruction : Prop :=
  ∀ (s : State) (i : Instr), s.resetIn = false → s.resp = none →
    (s.level = .transaction → phaseIdle s.phase = true →
      ∀ w, s.cmd = some w → decode (.command w) = .ok i → step s = exec i s) ∧
    (s.level = .micro ∨ phaseIdle s.phase = false →
      decode (.phase (phaseCode s.phase)) = .ok i → step s = exec i s)

/-- What the step does around an instruction: reset wins over everything, a response is held until it is
taken, and an idle block with no command waits (30_encoding.md R77, 60_exceptions.md R203, R206,
70_reset_and_hazards.md R233; that taking and waiting are steps of their own is the model's choice, log
entries 5 and 21). -/
def Obligations.StepHonoursResetAndHandshake : Prop :=
  ∀ s : State,
    (s.resetIn = true → step s = exec .reset s) ∧
    (s.resetIn = false → ∀ r, s.resp = some r → s.respReady = false → step s = .next s) ∧
    (s.resetIn = false → ∀ r, s.resp = some r → s.respReady = true →
      step s = .next { s with resp := none }) ∧
    (s.resetIn = false → s.resp = none → s.cmd = none → phaseIdle s.phase = true → step s = .next s)

/-- The invariant's base case: the state after reset satisfies it, and so does what RESET leaves of any block
that is configured as the spec asks, whatever its `REGISTRY` and `CTR_MAX` (70_reset_and_hazards.md R220, R222,
R226). -/
def Obligations.ResetStateIsInvariant : Prop :=
  Inv State.reset ∧ ∀ s : State, Configured s → ∃ t, exec .reset s = .next t ∧ Inv t

/-- Every step keeps the invariant: the chain's closed form, the gate, the ranges of `N`, the silence of the
busy phases, the emptiness of error responses (10_state.md R34, R35, 30_encoding.md R75,
45_stream_generator_fsm.md R182). -/
def Obligations.StepKeepsInvariant : Prop :=
  ∀ s t : State, Inv s → step s = .next t → Inv t

/-- A state that satisfies the invariant never stops (60_exceptions.md R200, R201). -/
def Obligations.InvariantStatesAlwaysStep : Prop :=
  ∀ s : State, Inv s → ∃ t, step s = .next t

/-- R183: from an idle state and a command word, the micro-steps up to the first response reach the
`PHASE`, `STATE`, `COUNTER`, `SEED` and response of the command taken as one step. -/
def Obligations.MicroStepsAgreeWithCommands : Prop :=
  ∀ (s : State) (w : CmdWord),
    s.level = .micro → cmdReady s = true → s.resetIn = false → s.cmd = some w →
    ∃ (k : Nat) (t u : State),
      run k s = .next t ∧ exec (decodeCommand w) s = .next u ∧
      (∀ j < k, ∃ m, run j s = .next m ∧ m.resp = none) ∧
      t.resp.isSome = true ∧ t.resp = u.resp ∧
      t.phase = u.phase ∧ t.stateReg = u.stateReg ∧ t.counter = u.counter ∧ t.seed = u.seed

/-- No value the spec leaves unspecified can reach a response: two states a host cannot tell apart step to
two states a host cannot tell apart, with the same ports (10_state.md R36, R38,
45_stream_generator_fsm.md R167). -/
def Obligations.UnspecifiedRegistersNeverShow : Prop :=
  ∀ s t s' : State, SameToHost s t → step s = .next s' → ∃ t', step t = .next t' ∧ SameToHost s' t'

/-! ### The command words (45_stream_generator_fsm.md part A, 60_exceptions.md) -/

/-- R195: an accepted command reports exactly one status, the first that applies. -/
def Obligations.CommandReportsFirstStatus : Prop :=
  ∀ (s : State) (i : Instr), isCommand i = true → cmdReady s = true →
    ∃ t out, exec i s = .next t ∧ t.resp = some ⟨commandStatus s i, out⟩ ∧
      (commandStatus s i ≠ .ok → out = 0)

/-- Every refusal changes nothing but the ports: the word is gone and the response carries the status
(60_exceptions.md R190 to R196; 20_memory.md R57). -/
def Obligations.RefusedCommandsChangeNothing : Prop :=
  ∀ (s : State) (i : Instr), isCommand i = true → cmdReady s = true →
    commandStatus s i ≠ .ok → commandStatus s i ≠ .eCounterExhausted →
    exec i s = .next { s with cmd := none, resp := some ⟨commandStatus s i, 0⟩ }

/-- R161: the transitions of `PHASE` at the transaction level, with their responses, and reset. -/
def Obligations.PhaseFollowsTransitionTable : Prop :=
  (∀ (s : State) (i : Instr), isCommand i = true → cmdReady s = true →
    ∃ t out, exec i s = .next t ∧ t.resp = some ⟨commandStatus s i, out⟩ ∧
      t.phase = (if commandStatus s i = .ok then .ready
        else if commandStatus s i = .eCounterExhausted then .fault else s.phase)) ∧
  ∀ s : State, ∃ t, exec .reset s = .next t ∧ t.phase = .uninit ∧ t.resp = none

/-- R162: INIT, in every idle phase and with every operand, and the rule's worked example. -/
def Obligations.InitFollowsItsRule : Prop :=
  ∀ (s : State) (cfg : BitVec 6) (len : BitVec 8) (seed : Reg256), cmdReady s = true →
    (s.phase = .fault →
      exec (.init cfg len seed) s = .next { s with cmd := none, resp := some ⟨.eFaulted, 0⟩ }) ∧
    (s.phase = .ready →
      exec (.init cfg len seed) s = .next { s with cmd := none, resp := some ⟨.eAlreadyInit, 0⟩ }) ∧
    (s.phase = .uninit → s.registry.length ≤ cfg.toNat →
      exec (.init cfg len seed) s = .next { s with cmd := none, resp := some ⟨.eIllegalCmd, 0⟩ }) ∧
    (∀ e, s.phase = .uninit → s.registry[cfg.toNat]? = some e → len ≠ e.seedLen →
      exec (.init cfg len seed) s = .next { s with cmd := none, resp := some ⟨.eSeedLength, 0⟩ }) ∧
    (∀ e, s.phase = .uninit → s.registry[cfg.toNat]? = some e → len = e.seedLen →
      sha256 (bytesOf seed) ≠ e.checksum →
      exec (.init cfg len seed) s = .next { s with cmd := none, resp := some ⟨.eChecksum, 0⟩ }) ∧
    (∀ e, s.phase = .uninit → s.registry[cfg.toNat]? = some e → len = e.seedLen →
      sha256 (bytesOf seed) = e.checksum →
      exec (.init cfg len seed) s = .next
        { s with
          seed := seed, stateReg := sha256 (bytesOf seed), counter := 0, phase := .ready
          cmd := none, resp := some ⟨.ok, 0⟩ }) ∧
    (s.phase = .uninit → s.registry[0]? = some Config.entry0 →
      exec (.init 0 32 0x0000000000000000a8f4979b77e3f93fa8f4979b77e3f93fa8f4979b77e3f93f) s = .next
        { s with
          seed := 0x0000000000000000a8f4979b77e3f93fa8f4979b77e3f93fa8f4979b77e3f93f
          stateReg := 0x096412ca0482ab0f519bc0e4ded667475c45495047653a21aa11e2c7c578fa6f
          counter := 0, phase := .ready, cmd := none, resp := some ⟨.ok, 0⟩ })

/-- A successful NEXT, in closed form and with no reference to the loop (45_stream_generator_fsm.md R165,
R173, 43_bit_selector.md R142, R143): it consumes the blocks up to the one that supplies the 256th accepted
bit, and answers the fold of the first 256 accepted bits. What `BITS`, `N` and `IDX` hold afterwards is
unspecified (93 U11, log entry 13). -/
def Obligations.NextFoldsFirst256AcceptedBits : Prop :=
  ∀ (s : State) (cfg : BitVec 6) (len : BitVec 8) (seed : Reg256) (m : Nat),
    s.phase = .ready → s.resp = none → m < s.ctrMax - s.counter →
    (acceptedBits s.stateReg s.counter m).length < 256 →
    256 ≤ (acceptedBits s.stateReg s.counter (m + 1)).length →
    exec (.next cfg len seed) s = .next
      { s with
        stateReg := stateAfter s.stateReg s.counter (m + 1)
        counter := s.counter + (m + 1)
        cmd := none
        resp := some ⟨.ok, foldBits fun j => (acceptedBits s.stateReg s.counter (m + 1)).getD j false⟩
        bits := Config.freeBits s.draws
        n := (Config.freeN s.draws).val
        idx := Config.freeIdx s.draws
        draws := s.draws + 1 }

/-- The counter fault of NEXT (45_stream_generator_fsm.md R166, 60_exceptions.md R197): the steps done
remain done, no output escapes, and `PHASE` is `FAULT`. -/
def Obligations.NextFaultsWhenCounterRunsOut : Prop :=
  ∀ (s : State) (cfg : BitVec 6) (len : BitVec 8) (seed : Reg256),
    s.phase = .ready → s.resp = none → s.counter ≤ s.ctrMax → (bitsBeforeExhaustion s).length < 256 →
    exec (.next cfg len seed) s = .next
      { s with
        stateReg := stateAfter s.stateReg s.counter (s.ctrMax - s.counter)
        counter := s.ctrMax
        phase := .fault
        cmd := none
        resp := some ⟨.eCounterExhausted, 0⟩
        bits := Config.freeBits s.draws
        n := (Config.freeN s.draws).val
        idx := Config.freeIdx s.draws
        draws := s.draws + 1 }

/-- Every NEXT accepted in `READY` ends, within the counter bound, in an output or in the counter fault
(45_stream_generator_fsm.md R171, 43_bit_selector.md R147). -/
def Obligations.NextEndsWithinTheCounterBound : Prop :=
  ∀ (s : State) (cfg : BitVec 6) (len : BitVec 8) (seed : Reg256),
    s.phase = .ready → s.resp = none → s.counter ≤ s.ctrMax →
    ∃ t r, exec (.next cfg len seed) s = .next t ∧ t.resp = some r ∧
      s.counter ≤ t.counter ∧ t.counter ≤ s.ctrMax ∧
      (r.status = .ok ∧ t.phase = .ready ∨
        r.status = .eCounterExhausted ∧ t.phase = .fault ∧ t.counter = s.ctrMax ∧ r.out = 0)

/-- An output costs at least 8 ratchet steps, because a block yields at most 32 bits
(42_state_ratchet.md R137, 43_bit_selector.md R146). -/
def Obligations.OutputCostsAtLeastEightRatchets : Prop :=
  ∀ (s t : State) (cfg : BitVec 6) (len : BitVec 8) (seed : Reg256) (out : Out128),
    s.phase = .ready → s.resp = none → exec (.next cfg len seed) s = .next t → t.resp = some ⟨.ok, out⟩ →
    s.counter + 8 ≤ t.counter

/-- R194: the two causes of `E_ILLEGAL_CMD`, and the phases in which an out-of-range `cfg` is not one. -/
def Obligations.IllegalCommandsAreAnswered : Prop :=
  ∀ (s : State) (cfg : BitVec 6) (len : BitVec 8) (seed : Reg256), cmdReady s = true →
    exec (.reservedOp00 cfg len seed) s =
      .next { s with cmd := none, resp := some ⟨.eIllegalCmd, 0⟩ } ∧
    exec (.reservedOp11 cfg len seed) s =
      .next { s with cmd := none, resp := some ⟨.eIllegalCmd, 0⟩ } ∧
    (s.registry.length ≤ cfg.toNat →
      exec (.init cfg len seed) s = .next { s with
        cmd := none
        resp := some ⟨(if s.phase = .uninit then .eIllegalCmd
          else if s.phase = .ready then .eAlreadyInit else .eFaulted), 0⟩ })

/-- A command offered while the port is not ready is not accepted: it waits and nothing changes
(20_memory.md R60, 30_encoding.md R77; log entry 7). -/
def Obligations.CommandsWaitForTheirPort : Prop :=
  ∀ (s : State) (i : Instr), isCommand i = true → cmdReady s = false → exec i s = .next s

/-! ### The micro-steps (45_stream_generator_fsm.md part B) -/

/-- R178: the step in `PHASE = RATCHET`. -/
def Obligations.RatchetStepFollowsItsRule : Prop :=
  ∀ s : State,
    (s.counter = s.ctrMax →
      exec .ratchet s = .next { s with phase := .fault, resp := some ⟨.eCounterExhausted, 0⟩ }) ∧
    (s.counter < s.ctrMax →
      exec .ratchet s = .next
        { s with
          stateReg := sha256 (bytesOf s.stateReg ++ dec s.counter)
          counter := s.counter + 1
          idx := 0
          phase := .sift })

/-- R179: the step in `PHASE = SIFT`. One byte is examined; an accepted byte appends its bit 0 at `N` and
leaves every other entry alone; the test for 256 bits comes before the test for the last byte. -/
def Obligations.SiftStepFollowsItsRule : Prop :=
  ∀ s : State, s.n < 256 →
    ∃ t n', exec .sift s = .next t ∧
      n' = (if accept s then s.n + 1 else s.n) ∧
      (∀ j < 256, bitsRead t.bits j =
        if accept s = true ∧ j = s.n then (stateByte s).getLsbD 0 else bitsRead s.bits j) ∧
      t = { s with
        n := n'
        bits := t.bits
        phase := (if n' = 256 then .fold else if s.idx = 31 then .ratchet else s.phase)
        idx := (if n' = 256 ∨ s.idx = 31 then s.idx else s.idx + 1) }

/-- Where `N` is 256 or more, which the rule of SIFT excludes and no reachable state has, SIFT stops by name
(43_bit_selector.md R141; log entry 9). -/
def Obligations.SiftStopsWithFullBits : Prop :=
  ∀ s : State, 256 ≤ s.n → exec .sift s = .fault .siftBitsFull

/-- The step in `PHASE = FOLD` (45_stream_generator_fsm.md R180). That it folds the file as it stands where `N` is
not 256, which the rule excludes, is the model's choice (log entry 10). -/
def Obligations.FoldStepFollowsItsRule : Prop :=
  ∀ s : State,
    exec .fold s = .next { s with phase := .ready, resp := some ⟨.ok, foldBits (bitsRead s.bits)⟩ }

/-- R175: the step in `PHASE = UNINIT` on a command word. -/
def Obligations.UninitStepFollowsItsRule : Prop :=
  ∀ (s : State) (w : CmdWord), s.cmd = some w → s.resp = none →
    (opField w = 0b00 ∨ opField w = 0b11 →
      exec .idleUninit s = .next { s with cmd := none, resp := some ⟨.eIllegalCmd, 0⟩ }) ∧
    (opField w = 0b10 →
      exec .idleUninit s = .next { s with cmd := none, resp := some ⟨.eNotReady, 0⟩ }) ∧
    (opField w = 0b01 → initStatus s (cfgField w) (lenField w) (seedField w) ≠ .ok →
      exec .idleUninit s = .next
        { s with
          cmd := none
          resp := some ⟨initStatus s (cfgField w) (lenField w) (seedField w), 0⟩ }) ∧
    (opField w = 0b01 → initStatus s (cfgField w) (lenField w) (seedField w) = .ok →
      exec .idleUninit s = .next
        { s with
          seed := seedField w, stateReg := sha256 (bytesOf (seedField w)), counter := 0, phase := .ready
          cmd := none, resp := some ⟨.ok, 0⟩ })

/-- R176: the step in `PHASE = READY` on a command word. -/
def Obligations.ReadyStepFollowsItsRule : Prop :=
  ∀ (s : State) (w : CmdWord), s.cmd = some w → s.resp = none →
    (opField w = 0b00 ∨ opField w = 0b11 →
      exec .idleReady s = .next { s with cmd := none, resp := some ⟨.eIllegalCmd, 0⟩ }) ∧
    (opField w = 0b01 →
      exec .idleReady s = .next { s with cmd := none, resp := some ⟨.eAlreadyInit, 0⟩ }) ∧
    (opField w = 0b10 →
      exec .idleReady s = .next { s with cmd := none, n := 0, phase := .ratchet })

/-- R177: the step in `PHASE = FAULT` on a command word. -/
def Obligations.FaultStepFollowsItsRule : Prop :=
  ∀ (s : State) (w : CmdWord), s.phase = .fault → s.cmd = some w → s.resp = none →
    ∃ t, exec .idleFault s = .next t ∧ t.phase = .fault ∧
      t = { s with
        cmd := none
        resp := some ⟨(if opField w = 0b00 ∨ opField w = 0b11 then .eIllegalCmd else .eFaulted), 0⟩ }

/-- An idle micro-step with no word to accept waits (45_stream_generator_fsm.md R174; that the wait is a
step that changes nothing is the model's choice, log entry 21). -/
def Obligations.IdleStepsWaitForAWord : Prop :=
  ∀ s : State, s.cmd = none ∨ s.resp.isSome = true →
    exec .idleUninit s = .next s ∧ exec .idleReady s = .next s ∧ exec .idleFault s = .next s

/-! ### Sub-operations, selector, folder, hash -/

/-- VALIDATE executed on its own (41_seed_store.md R120 to R122): the length is tested before the checksum,
and nothing but the model's own result field changes (log entry 11). That a `cfg` past the registry, which
the rule leaves to its caller, hands back `E_ILLEGAL_CMD` is the model's choice (log entry 12). -/
def Obligations.ValidateTestsLengthThenChecksum : Prop :=
  ∀ (s : State) (cfg : BitVec 6) (len : BitVec 8) (seed : Reg256),
    (s.registry.length ≤ cfg.toNat →
      exec (.validate cfg len seed) s = .next { s with result := .rejected .eIllegalCmd }) ∧
    ∀ e : Config.RegistryEntry, s.registry[cfg.toNat]? = some e →
      (len ≠ e.seedLen →
        exec (.validate cfg len seed) s = .next { s with result := .rejected .eSeedLength }) ∧
      (len = e.seedLen → sha256 (bytesOf seed) ≠ e.checksum →
        exec (.validate cfg len seed) s = .next { s with result := .rejected .eChecksum }) ∧
      (len = e.seedLen → sha256 (bytesOf seed) = e.checksum →
        exec (.validate cfg len seed) s = .next { s with result := .validated e.checksum })

/-- COLLECT executed on its own, in closed form (43_bit_selector.md R142, R143): the first 256 accepted bits
from the start of the first block, with the state and the counter of the block that supplied the last. -/
def Obligations.CollectTakesFirst256AcceptedBits : Prop :=
  ∀ (s : State) (m : Nat), m < s.ctrMax - s.counter →
    (acceptedBits s.stateReg s.counter m).length < 256 →
    256 ≤ (acceptedBits s.stateReg s.counter (m + 1)).length →
    exec .collect s = .next
      { s with
        stateReg := stateAfter s.stateReg s.counter (m + 1)
        counter := s.counter + (m + 1)
        result := .collected ((acceptedBits s.stateReg s.counter (m + 1)).take 256)
        bits := Config.freeBits s.draws
        n := (Config.freeN s.draws).val
        idx := Config.freeIdx s.draws
        draws := s.draws + 1 }

/-- COLLECT executed on its own where the blocks left do not hold 256 accepted bits (43_bit_selector.md R142,
45_stream_generator_fsm.md R166): the ratchet steps are done and the counter fault is taken (log entries 11
and 13). -/
def Obligations.CollectFaultsWhenCounterRunsOut : Prop :=
  ∀ s : State, s.counter ≤ s.ctrMax → (bitsBeforeExhaustion s).length < 256 →
    exec .collect s = .next
      { s with
        stateReg := stateAfter s.stateReg s.counter (s.ctrMax - s.counter)
        counter := s.ctrMax
        phase := .fault
        resp := some ⟨.eCounterExhausted, 0⟩
        result := .rejected .eCounterExhausted
        bits := Config.freeBits s.draws
        n := (Config.freeN s.draws).val
        idx := Config.freeIdx s.draws
        draws := s.draws + 1 }

/-- SHA256 executed on its own reads and writes no state of the block, completes on every message, and has
the values 40_hash_sha256.md R110 works out (the result field is log entry 11; the digest of a message past
R110's bound is a free value, log entry 25). -/
def Obligations.Sha256HandsBackItsDigest : Prop :=
  (∀ (s : State) (m : List Byte), exec (.sha256 m) s = .next { s with result := .digest (sha256 m) }) ∧
  sha256 [] = 0xe3b0c44298fc1c149afbf4c8996fb92427ae41e4649b934ca495991b7852b855 ∧
  sha256 [0x61, 0x62, 0x63] = 0xba7816bf8f01cfea414140de5dae2223b00361a396177a9cb410ff61f20015ad ∧
  sha256 (bytesOf 0x0000000000000000a8f4979b77e3f93fa8f4979b77e3f93fa8f4979b77e3f93f#256) =
    0x096412ca0482ab0f519bc0e4ded667475c45495047653a21aa11e2c7c578fa6f

/-- The padded message (40_hash_sha256.md R106): the message, the byte `80`, the fewest zero bytes that make
whole blocks, and the bit length; one block for messages of up to 55 bytes. From `2^61` bytes on, past R110's
bound, the length's low 64 bits stand there: the model's choice (log entry 25). -/
def Obligations.PaddingIsMinimal : Prop :=
  ∀ m : List Byte, ∃ z : Nat,
    padMessage m = m ++ [0x80] ++ List.replicate z 0 ++ bytesOf (BitVec.ofNat 64 (8 * m.length)) ∧
    64 ∣ m.length + 1 + z + 8 ∧ (∀ y < z, ¬ 64 ∣ m.length + 1 + y + 8) ∧
    (padMessage m).length = m.length + 1 + z + 8 ∧
    (m.length ≤ 55 → (padMessage m).length = 64)

/-- R140: the acceptance predicate and the contributed bit, with the equivalent forms and the examples. -/
def Obligations.AcceptanceComparesBitsOneAndTwo : Prop :=
  (∀ b : Byte,
    (acceptByte b = true ↔ b.getLsbD 1 = b.getLsbD 2) ∧ selectedBit b = b.getLsbD 0 ∧
    (acceptByte b = true ↔ b &&& 0x06 = 0x00 ∨ b &&& 0x06 = 0x06) ∧
    (acceptByte b = true ↔ ((b >>> 1) ^^^ (b >>> 2)) &&& 1 = 0) ∧
    acceptByte b = acceptByte (b &&& 0x07) ∧ selectedBit b = selectedBit (b &&& 0x07)) ∧
  acceptByte 0xf7 = true ∧ selectedBit 0xf7 = true ∧ acceptByte 0x7a = false ∧
  acceptByte 0xc8 = true ∧ selectedBit 0xc8 = false ∧ acceptByte 0x00 = true ∧ selectedBit 0x00 = false ∧
  acceptByte 0xff = true ∧ selectedBit 0xff = true ∧ acceptByte 0x02 = false ∧ acceptByte 0x04 = false

/-- Exactly 128 of the 256 byte values are accepted, and half of those contribute 1
(43_bit_selector.md R145). -/
def Obligations.HalfOfAllBytesAreAccepted : Prop :=
  ((List.range 256).countP fun v => acceptByte (BitVec.ofNat 8 v)) = 128 ∧
  ((List.range 256).countP fun v =>
    acceptByte (BitVec.ofNat 8 v) && selectedBit (BitVec.ofNat 8 v)) = 64

/-- Scanning a block with the stop at the 256th bit keeps what a whole scan cut at 256 bits keeps, and adds
at most 32 bits (43_bit_selector.md R143, R144, R146). -/
def Obligations.BlockScanCutsAt256 : Prop :=
  ∀ (block : Reg256) (held : List Bool), held.length ≤ 256 →
    scanBlock (bytesOf block) held = (held ++ blockBits block).take 256 ∧
    (scanBlock (bytesOf block) held).length ≤ held.length + 32

/-- R151: output bit `i` is packed into byte `i div 8` at weight `2^(7 - i mod 8)`, wire `127 - i`. -/
def Obligations.FoldPacksMostSignificantFirst : Prop :=
  ∀ (bit : Nat → Bool) (i : Nat), i < 128 →
    (byteAt (foldBits bit) (i / 8)).getLsbD (7 - i % 8) = (bit i ^^ bit (i + 128)) ∧
    (foldBits bit).getLsbD (127 - i) = (bit i ^^ bit (i + 128))

/-- R153: the fold is 128 one-bit lanes; on packed values it is the exclusive or of the two halves, byte by
byte and as 128-bit values. -/
def Obligations.FoldIsExclusiveOrOfHalves : Prop :=
  ∀ bits : Reg256,
    foldBits (bitsRead bits) = bits.extractLsb' 128 128 ^^^ bits.extractLsb' 0 128 ∧
    (∀ k < 16, byteAt (foldBits (bitsRead bits)) k = byteAt bits k ^^^ byteAt bits (k + 16)) ∧
    (∀ i < 128, (foldBits (bitsRead bits)).getMsbD i = (bitsRead bits i ^^ bitsRead bits (i + 128)))

/-- R154: the laws of the fold. Each output has exactly one input for each first half, so `2^128` inputs
share it. -/
def Obligations.FoldObeysItsLaws : Prop :=
  (∀ x y : Reg256, foldBits (bitsRead (x ^^^ y)) = foldBits (bitsRead x) ^^^ foldBits (bitsRead y)) ∧
  (∀ a b : Out128, foldBits (bitsRead (a ++ b : BitVec 256)) = foldBits (bitsRead (b ++ a : BitVec 256))) ∧
  (∀ a : Out128, foldBits (bitsRead (a ++ a : BitVec 256)) = 0) ∧
  (∀ a : Out128, foldBits (bitsRead (a ++ ~~~a : BitVec 256)) = BitVec.allOnes 128) ∧
  (∀ out a : Out128, ∃! b : Out128, foldBits (bitsRead (a ++ b : BitVec 256)) = out) ∧
  ((false ^^ false) = false ∧ (false ^^ true) = true ∧ (true ^^ false) = true ∧ (true ^^ true) = false)

/-! ### Reset and whole-machine rules -/

/-- RESET, from every state (70_reset_and_hazards.md R220, R221): `UNINIT`, no response, the registry and
the command port untouched, and the bounds of `COUNTER` and `N` kept (the six registers themselves are
unspecified: log entry 3). Of a block that is configured as the spec asks it leaves a state that satisfies the
invariant (R222, R226). -/
def Obligations.ResetAbandonsEverything : Prop :=
  ∀ s : State, ∃ t, exec .reset s = .next t ∧
    t.phase = .uninit ∧ t.resp = none ∧ t.resetIn = false ∧
    t.registry = s.registry ∧ t.ctrMax = s.ctrMax ∧ t.cmd = s.cmd ∧ t.respReady = s.respReady ∧
    t.level = s.level ∧ t.counter ≤ s.ctrMax ∧ t.n ≤ 256 ∧ (Configured s → Inv t)

/-- R196: `FAULT` is sticky. INIT and NEXT are answered `E_FAULTED` and change nothing, no step without
reset leaves it or changes the data registers, and reset leaves it. -/
def Obligations.FaultIsStickyUntilReset : Prop :=
  (∀ (s : State) (i : Instr), s.phase = .fault → s.resp = none →
    (∃ cfg len seed, i = .init cfg len seed ∨ i = .next cfg len seed) →
    exec i s = .next { s with cmd := none, resp := some ⟨.eFaulted, 0⟩ }) ∧
  (∀ s t : State, s.phase = .fault → s.resetIn = false → step s = .next t →
    t.phase = .fault ∧ t.stateReg = s.stateReg ∧ t.counter = s.counter ∧ t.seed = s.seed) ∧
  (∀ s : State, s.phase = .fault → s.resetIn = true → ∃ t, step s = .next t ∧ t.phase = .uninit)

/-- The checksum gate (41_seed_store.md R123): no step leads out of `UNINIT` but an INIT whose length and
digest are those of its registry entry, and that digest is the new `STATE`. -/
def Obligations.OnlyVerifiedSeedsLeaveUninit : Prop :=
  ∀ s t : State, s.phase = .uninit → step s = .next t → t.phase ≠ .uninit →
    ∃ w cfg len seed e, s.cmd = some w ∧ decodeCommand w = .init cfg len seed ∧
      s.registry[cfg.toNat]? = some e ∧ len = e.seedLen ∧ sha256 (bytesOf seed) = e.checksum ∧
      t.phase = .ready ∧ t.seed = seed ∧ t.stateReg = e.checksum ∧ t.counter = 0

/-- Between a successful INIT and the next reset a step never returns to `UNINIT`, never changes `SEED`,
and moves `(STATE, COUNTER)` only by whole ratchet steps (10_state.md R34, 45_stream_generator_fsm.md R161,
R169). -/
def Obligations.OnlyRatchetsMoveStateAndCounter : Prop :=
  ∀ s t : State, s.phase ≠ .uninit → s.resetIn = false → step s = .next t →
    t.phase ≠ .uninit ∧ t.seed = s.seed ∧
    ∃ m, t.counter = s.counter + m ∧ t.stateReg = stateAfter s.stateReg s.counter m

/-- `REGISTRY` and `CTR_MAX` never change (10_state.md R30, 70_reset_and_hazards.md R226), nor does the
model's own level field (log entry 1). -/
def Obligations.ConfigurationNeverChanges : Prop :=
  ∀ s t : State, step s = .next t → t.registry = s.registry ∧ t.ctrMax = s.ctrMax ∧ t.level = s.level

/-- In a busy phase a response appears only in the step that leaves it for `READY` or `FAULT`
(45_stream_generator_fsm.md R182 (f)). -/
def Obligations.BusyPhasesAnswerOnlyOnLeaving : Prop :=
  ∀ s t : State, busy s = true → s.resp = none → step s = .next t → t.resp ≠ none →
    t.phase = .ready ∨ t.phase = .fault
end

