-- ==== Sys2Proof/Laws/State.lean ====
section
/-! SUPPORT. One lemma per field for each named update of the state, so that no proof unfolds a record
update. -/

namespace Sys2Proof.Machine

/-! ### `State.respond` -/

@[simp] theorem State.respond_phase (s : State) (st : Status) (out : Out128) :
    (s.respond st out).phase = s.phase := rfl
@[simp] theorem State.respond_stateReg (s : State) (st : Status) (out : Out128) :
    (s.respond st out).stateReg = s.stateReg := rfl
@[simp] theorem State.respond_counter (s : State) (st : Status) (out : Out128) :
    (s.respond st out).counter = s.counter := rfl
@[simp] theorem State.respond_seed (s : State) (st : Status) (out : Out128) :
    (s.respond st out).seed = s.seed := rfl
@[simp] theorem State.respond_bits (s : State) (st : Status) (out : Out128) :
    (s.respond st out).bits = s.bits := rfl
@[simp] theorem State.respond_n (s : State) (st : Status) (out : Out128) :
    (s.respond st out).n = s.n := rfl
@[simp] theorem State.respond_idx (s : State) (st : Status) (out : Out128) :
    (s.respond st out).idx = s.idx := rfl
@[simp] theorem State.respond_registry (s : State) (st : Status) (out : Out128) :
    (s.respond st out).registry = s.registry := rfl
@[simp] theorem State.respond_ctrMax (s : State) (st : Status) (out : Out128) :
    (s.respond st out).ctrMax = s.ctrMax := rfl
@[simp] theorem State.respond_cmd (s : State) (st : Status) (out : Out128) :
    (s.respond st out).cmd = s.cmd := rfl
@[simp] theorem State.respond_resp (s : State) (st : Status) (out : Out128) :
    (s.respond st out).resp = some ⟨st, out⟩ := rfl
@[simp] theorem State.respond_respReady (s : State) (st : Status) (out : Out128) :
    (s.respond st out).respReady = s.respReady := rfl
@[simp] theorem State.respond_resetIn (s : State) (st : Status) (out : Out128) :
    (s.respond st out).resetIn = s.resetIn := rfl
@[simp] theorem State.respond_level (s : State) (st : Status) (out : Out128) :
    (s.respond st out).level = s.level := rfl
@[simp] theorem State.respond_result (s : State) (st : Status) (out : Out128) :
    (s.respond st out).result = s.result := rfl
@[simp] theorem State.respond_draws (s : State) (st : Status) (out : Out128) :
    (s.respond st out).draws = s.draws := rfl

/-! ### `State.raise` -/

@[simp] theorem State.raise_phase (s : State) (e : Status) :
    (s.raise e).phase = s.phase := rfl
@[simp] theorem State.raise_stateReg (s : State) (e : Status) :
    (s.raise e).stateReg = s.stateReg := rfl
@[simp] theorem State.raise_counter (s : State) (e : Status) :
    (s.raise e).counter = s.counter := rfl
@[simp] theorem State.raise_seed (s : State) (e : Status) :
    (s.raise e).seed = s.seed := rfl
@[simp] theorem State.raise_bits (s : State) (e : Status) :
    (s.raise e).bits = s.bits := rfl
@[simp] theorem State.raise_n (s : State) (e : Status) :
    (s.raise e).n = s.n := rfl
@[simp] theorem State.raise_idx (s : State) (e : Status) :
    (s.raise e).idx = s.idx := rfl
@[simp] theorem State.raise_registry (s : State) (e : Status) :
    (s.raise e).registry = s.registry := rfl
@[simp] theorem State.raise_ctrMax (s : State) (e : Status) :
    (s.raise e).ctrMax = s.ctrMax := rfl
@[simp] theorem State.raise_cmd (s : State) (e : Status) :
    (s.raise e).cmd = s.cmd := rfl
@[simp] theorem State.raise_resp (s : State) (e : Status) :
    (s.raise e).resp = some ⟨e, 0⟩ := rfl
@[simp] theorem State.raise_respReady (s : State) (e : Status) :
    (s.raise e).respReady = s.respReady := rfl
@[simp] theorem State.raise_resetIn (s : State) (e : Status) :
    (s.raise e).resetIn = s.resetIn := rfl
@[simp] theorem State.raise_level (s : State) (e : Status) :
    (s.raise e).level = s.level := rfl
@[simp] theorem State.raise_result (s : State) (e : Status) :
    (s.raise e).result = s.result := rfl
@[simp] theorem State.raise_draws (s : State) (e : Status) :
    (s.raise e).draws = s.draws := rfl

/-! ### `State.accepted` -/

@[simp] theorem State.accepted_phase (s : State) :
    (s.accepted).phase = s.phase := rfl
@[simp] theorem State.accepted_stateReg (s : State) :
    (s.accepted).stateReg = s.stateReg := rfl
@[simp] theorem State.accepted_counter (s : State) :
    (s.accepted).counter = s.counter := rfl
@[simp] theorem State.accepted_seed (s : State) :
    (s.accepted).seed = s.seed := rfl
@[simp] theorem State.accepted_bits (s : State) :
    (s.accepted).bits = s.bits := rfl
@[simp] theorem State.accepted_n (s : State) :
    (s.accepted).n = s.n := rfl
@[simp] theorem State.accepted_idx (s : State) :
    (s.accepted).idx = s.idx := rfl
@[simp] theorem State.accepted_registry (s : State) :
    (s.accepted).registry = s.registry := rfl
@[simp] theorem State.accepted_ctrMax (s : State) :
    (s.accepted).ctrMax = s.ctrMax := rfl
@[simp] theorem State.accepted_cmd (s : State) :
    (s.accepted).cmd = none := rfl
@[simp] theorem State.accepted_resp (s : State) :
    (s.accepted).resp = s.resp := rfl
@[simp] theorem State.accepted_respReady (s : State) :
    (s.accepted).respReady = s.respReady := rfl
@[simp] theorem State.accepted_resetIn (s : State) :
    (s.accepted).resetIn = s.resetIn := rfl
@[simp] theorem State.accepted_level (s : State) :
    (s.accepted).level = s.level := rfl
@[simp] theorem State.accepted_result (s : State) :
    (s.accepted).result = s.result := rfl
@[simp] theorem State.accepted_draws (s : State) :
    (s.accepted).draws = s.draws := rfl

/-! ### `State.counterFault` -/

@[simp] theorem State.counterFault_phase (s : State) :
    (s.counterFault).phase = .fault := rfl
@[simp] theorem State.counterFault_stateReg (s : State) :
    (s.counterFault).stateReg = s.stateReg := rfl
@[simp] theorem State.counterFault_counter (s : State) :
    (s.counterFault).counter = s.counter := rfl
@[simp] theorem State.counterFault_seed (s : State) :
    (s.counterFault).seed = s.seed := rfl
@[simp] theorem State.counterFault_bits (s : State) :
    (s.counterFault).bits = s.bits := rfl
@[simp] theorem State.counterFault_n (s : State) :
    (s.counterFault).n = s.n := rfl
@[simp] theorem State.counterFault_idx (s : State) :
    (s.counterFault).idx = s.idx := rfl
@[simp] theorem State.counterFault_registry (s : State) :
    (s.counterFault).registry = s.registry := rfl
@[simp] theorem State.counterFault_ctrMax (s : State) :
    (s.counterFault).ctrMax = s.ctrMax := rfl
@[simp] theorem State.counterFault_cmd (s : State) :
    (s.counterFault).cmd = s.cmd := rfl
@[simp] theorem State.counterFault_resp (s : State) :
    (s.counterFault).resp = some ⟨.eCounterExhausted, 0⟩ := rfl
@[simp] theorem State.counterFault_respReady (s : State) :
    (s.counterFault).respReady = s.respReady := rfl
@[simp] theorem State.counterFault_resetIn (s : State) :
    (s.counterFault).resetIn = s.resetIn := rfl
@[simp] theorem State.counterFault_level (s : State) :
    (s.counterFault).level = s.level := rfl
@[simp] theorem State.counterFault_result (s : State) :
    (s.counterFault).result = s.result := rfl
@[simp] theorem State.counterFault_draws (s : State) :
    (s.counterFault).draws = s.draws := rfl

/-! ### `State.constructed` -/

@[simp] theorem State.constructed_phase (s : State) (sd d : Reg256) :
    (s.constructed sd d).phase = .ready := rfl
@[simp] theorem State.constructed_stateReg (s : State) (sd d : Reg256) :
    (s.constructed sd d).stateReg = d := rfl
@[simp] theorem State.constructed_counter (s : State) (sd d : Reg256) :
    (s.constructed sd d).counter = 0 := rfl
@[simp] theorem State.constructed_seed (s : State) (sd d : Reg256) :
    (s.constructed sd d).seed = sd := rfl
@[simp] theorem State.constructed_bits (s : State) (sd d : Reg256) :
    (s.constructed sd d).bits = s.bits := rfl
@[simp] theorem State.constructed_n (s : State) (sd d : Reg256) :
    (s.constructed sd d).n = s.n := rfl
@[simp] theorem State.constructed_idx (s : State) (sd d : Reg256) :
    (s.constructed sd d).idx = s.idx := rfl
@[simp] theorem State.constructed_registry (s : State) (sd d : Reg256) :
    (s.constructed sd d).registry = s.registry := rfl
@[simp] theorem State.constructed_ctrMax (s : State) (sd d : Reg256) :
    (s.constructed sd d).ctrMax = s.ctrMax := rfl
@[simp] theorem State.constructed_cmd (s : State) (sd d : Reg256) :
    (s.constructed sd d).cmd = s.cmd := rfl
@[simp] theorem State.constructed_resp (s : State) (sd d : Reg256) :
    (s.constructed sd d).resp = some ⟨.ok, 0⟩ := rfl
@[simp] theorem State.constructed_respReady (s : State) (sd d : Reg256) :
    (s.constructed sd d).respReady = s.respReady := rfl
@[simp] theorem State.constructed_resetIn (s : State) (sd d : Reg256) :
    (s.constructed sd d).resetIn = s.resetIn := rfl
@[simp] theorem State.constructed_level (s : State) (sd d : Reg256) :
    (s.constructed sd d).level = s.level := rfl
@[simp] theorem State.constructed_result (s : State) (sd d : Reg256) :
    (s.constructed sd d).result = s.result := rfl
@[simp] theorem State.constructed_draws (s : State) (sd d : Reg256) :
    (s.constructed sd d).draws = s.draws := rfl

/-! ### `State.ratcheted` -/

@[simp] theorem State.ratcheted_phase (s : State) :
    (s.ratcheted).phase = s.phase := rfl
@[simp] theorem State.ratcheted_stateReg (s : State) :
    (s.ratcheted).stateReg = ratchetHash s.stateReg s.counter := rfl
@[simp] theorem State.ratcheted_counter (s : State) :
    (s.ratcheted).counter = s.counter + 1 := rfl
@[simp] theorem State.ratcheted_seed (s : State) :
    (s.ratcheted).seed = s.seed := rfl
@[simp] theorem State.ratcheted_bits (s : State) :
    (s.ratcheted).bits = s.bits := rfl
@[simp] theorem State.ratcheted_n (s : State) :
    (s.ratcheted).n = s.n := rfl
@[simp] theorem State.ratcheted_idx (s : State) :
    (s.ratcheted).idx = 0 := rfl
@[simp] theorem State.ratcheted_registry (s : State) :
    (s.ratcheted).registry = s.registry := rfl
@[simp] theorem State.ratcheted_ctrMax (s : State) :
    (s.ratcheted).ctrMax = s.ctrMax := rfl
@[simp] theorem State.ratcheted_cmd (s : State) :
    (s.ratcheted).cmd = s.cmd := rfl
@[simp] theorem State.ratcheted_resp (s : State) :
    (s.ratcheted).resp = s.resp := rfl
@[simp] theorem State.ratcheted_respReady (s : State) :
    (s.ratcheted).respReady = s.respReady := rfl
@[simp] theorem State.ratcheted_resetIn (s : State) :
    (s.ratcheted).resetIn = s.resetIn := rfl
@[simp] theorem State.ratcheted_level (s : State) :
    (s.ratcheted).level = s.level := rfl
@[simp] theorem State.ratcheted_result (s : State) :
    (s.ratcheted).result = s.result := rfl
@[simp] theorem State.ratcheted_draws (s : State) :
    (s.ratcheted).draws = s.draws := rfl

/-! ### `State.forgetTransients` -/

@[simp] theorem State.forgetTransients_phase (s : State) :
    (s.forgetTransients).phase = s.phase := rfl
@[simp] theorem State.forgetTransients_stateReg (s : State) :
    (s.forgetTransients).stateReg = s.stateReg := rfl
@[simp] theorem State.forgetTransients_counter (s : State) :
    (s.forgetTransients).counter = s.counter := rfl
@[simp] theorem State.forgetTransients_seed (s : State) :
    (s.forgetTransients).seed = s.seed := rfl
@[simp] theorem State.forgetTransients_bits (s : State) :
    (s.forgetTransients).bits = Config.freeBits s.draws := rfl
@[simp] theorem State.forgetTransients_n (s : State) :
    (s.forgetTransients).n = (Config.freeN s.draws).val := rfl
@[simp] theorem State.forgetTransients_idx (s : State) :
    (s.forgetTransients).idx = Config.freeIdx s.draws := rfl
@[simp] theorem State.forgetTransients_registry (s : State) :
    (s.forgetTransients).registry = s.registry := rfl
@[simp] theorem State.forgetTransients_ctrMax (s : State) :
    (s.forgetTransients).ctrMax = s.ctrMax := rfl
@[simp] theorem State.forgetTransients_cmd (s : State) :
    (s.forgetTransients).cmd = s.cmd := rfl
@[simp] theorem State.forgetTransients_resp (s : State) :
    (s.forgetTransients).resp = s.resp := rfl
@[simp] theorem State.forgetTransients_respReady (s : State) :
    (s.forgetTransients).respReady = s.respReady := rfl
@[simp] theorem State.forgetTransients_resetIn (s : State) :
    (s.forgetTransients).resetIn = s.resetIn := rfl
@[simp] theorem State.forgetTransients_level (s : State) :
    (s.forgetTransients).level = s.level := rfl
@[simp] theorem State.forgetTransients_result (s : State) :
    (s.forgetTransients).result = s.result := rfl
@[simp] theorem State.forgetTransients_draws (s : State) :
    (s.forgetTransients).draws = s.draws + 1 := rfl

/-! ### `State.afterReset` -/

@[simp] theorem State.afterReset_phase (s : State) :
    (s.afterReset).phase = .uninit := rfl
@[simp] theorem State.afterReset_stateReg (s : State) :
    (s.afterReset).stateReg = Config.freeState s.draws := rfl
@[simp] theorem State.afterReset_counter (s : State) :
    (s.afterReset).counter = Config.freeCounter s.draws % (s.ctrMax + 1) := rfl
@[simp] theorem State.afterReset_seed (s : State) :
    (s.afterReset).seed = Config.freeSeed s.draws := rfl
@[simp] theorem State.afterReset_bits (s : State) :
    (s.afterReset).bits = Config.freeBits s.draws := rfl
@[simp] theorem State.afterReset_n (s : State) :
    (s.afterReset).n = (Config.freeN s.draws).val := rfl
@[simp] theorem State.afterReset_idx (s : State) :
    (s.afterReset).idx = Config.freeIdx s.draws := rfl
@[simp] theorem State.afterReset_registry (s : State) :
    (s.afterReset).registry = s.registry := rfl
@[simp] theorem State.afterReset_ctrMax (s : State) :
    (s.afterReset).ctrMax = s.ctrMax := rfl
@[simp] theorem State.afterReset_cmd (s : State) :
    (s.afterReset).cmd = s.cmd := rfl
@[simp] theorem State.afterReset_resp (s : State) :
    (s.afterReset).resp = none := rfl
@[simp] theorem State.afterReset_respReady (s : State) :
    (s.afterReset).respReady = s.respReady := rfl
@[simp] theorem State.afterReset_resetIn (s : State) :
    (s.afterReset).resetIn = false := rfl
@[simp] theorem State.afterReset_level (s : State) :
    (s.afterReset).level = s.level := rfl
@[simp] theorem State.afterReset_result (s : State) :
    (s.afterReset).result = .none := rfl
@[simp] theorem State.afterReset_draws (s : State) :
    (s.afterReset).draws = s.draws + 1 := rfl

end Sys2Proof.Machine
end

