-- ==== Sys2Proof/Laws/Ops.lean ====
section
/-! SUPPORT. For each shared operation, what it can do, said once. -/

namespace Sys2Proof.Machine

open Sys2Proof.Safety

/-! ### Ports -/

theorem cmdReady_iff (s : State) : cmdReady s = true ↔ phaseIdle s.phase = true ∧ s.resp = none := by
  simp [cmdReady]

theorem offered_eq_some_iff (s : State) (w : CmdWord) :
    offered s = some w ↔ s.resp = none ∧ s.cmd = some w := by
  unfold offered
  cases h : s.resp <;> simp

theorem offered_eq_none_iff (s : State) : offered s = none ↔ s.resp.isSome = true ∨ s.cmd = none := by
  unfold offered
  cases h : s.resp <;> simp

theorem phaseIdle_cases {p : Phase} (h : phaseIdle p = true) : p = .uninit ∨ p = .ready ∨ p = .fault := by
  cases p <;> simp_all [phaseIdle]

/-! ### Decoding -/

theorem opField_cases (w : CmdWord) :
    opField w = 0b00#2 ∨ opField w = 0b01#2 ∨ opField w = 0b10#2 ∨ opField w = 0b11#2 := by
  generalize opField w = v
  revert v
  decide

theorem decodePhase_phaseCode (p : Phase) :
    decodePhase (phaseCode p) = .ok (match p with
      | .uninit => .idleUninit
      | .ready => .idleReady
      | .ratchet => .ratchet
      | .sift => .sift
      | .fold => .fold
      | .fault => .idleFault) := by
  cases p <;> rfl

/-- `phaseOfCode` inverts `phaseCode`. -/
theorem phaseOfCode_phaseCode (p : Phase) : phaseOfCode (phaseCode p) = some p := by
  cases p <;> rfl

/-! ### The gate and the construction -/

/-- INIT in `UNINIT` either constructs the generator or raises the one status that applies. -/
theorem construct_eq (s : State) (cfg : BitVec 6) (len : BitVec 8) (seed : Reg256) :
    s.construct cfg len seed =
      if initStatus s cfg len seed = .ok then s.constructed seed (sha256 (bytesOf seed))
      else s.raise (initStatus s cfg len seed) := by
  unfold State.construct validate initStatus registryRead
  by_cases hlen : s.registry.length ≤ cfg.toNat
  · simp [hlen]
  · rw [if_neg hlen]
    obtain ⟨e, he⟩ : ∃ e, s.registry[cfg.toNat]? = some e :=
      ⟨_, List.getElem?_eq_getElem (Nat.lt_of_not_le hlen)⟩
    rw [he]
    by_cases h1 : len = e.seedLen
    · by_cases h2 : sha256 (bytesOf seed) = e.checksum <;> simp [h1, h2]
    · simp [h1]

theorem initStatus_eq_ok_iff (s : State) (cfg : BitVec 6) (len : BitVec 8) (seed : Reg256) :
    initStatus s cfg len seed = .ok ↔
      ∃ e, s.registry[cfg.toNat]? = some e ∧ len = e.seedLen ∧ sha256 (bytesOf seed) = e.checksum := by
  unfold initStatus
  cases s.registry[cfg.toNat]? with
  | none => simp
  | some e => by_cases h1 : len = e.seedLen <;> by_cases h2 : sha256 (bytesOf seed) = e.checksum <;> simp [h1, h2]

/-! ### The selector's registers -/

theorem bitsRead_bitsWrite (bits : Reg256) (j k : Nat) (v : Bool) (hj : j < 256) (hk : k < 256) :
    bitsRead (bitsWrite bits k v) j = if j = k then v else bitsRead bits j := by
  have hne : 255 - j = 255 - k ↔ j = k := by omega
  unfold bitsRead bitsWrite BitVec.getMsbD
  rw [show 256 - 1 - j = 255 - j by omega]
  by_cases h : j = k <;> cases v <;>
    simp [h, hj, hk, hne, show 255 - j < 256 by omega, show 255 - k < 256 by omega]

/-- What SIFT writes, and nothing else. -/
theorem sifted_eq (s : State) :
    s.sifted = { s with
      bits := (if accept s then bitsWrite s.bits s.n (selectedBit (stateByte s)) else s.bits)
      n := (if accept s then s.n + 1 else s.n) } := by
  unfold State.sifted
  split <;> simp_all

/-- Where the FSM goes after a byte. -/
theorem afterSift_eq (s : State) :
    s.afterSift = { s with
      phase := (if s.n = 256 then .fold else if s.idx = 31 then .ratchet else s.phase)
      idx := (if s.n = 256 ∨ s.idx = 31 then s.idx else s.idx + 1) } := by
  unfold State.afterSift full last Config.selectBits
  by_cases h : s.n = 256 <;> by_cases h' : s.idx = 31 <;> simp [h, h']

/-! ### The hash -/

/-- Within the bound of R110 the digest is the computed one. -/
theorem sha256_of_lt {m : List Byte} (h : m.length < 2 ^ 61) : sha256 m = digestOfMessage m := if_pos h

/-- Past it the digest is the free value of the message. -/
theorem sha256_of_le {m : List Byte} (h : 2 ^ 61 ≤ m.length) : sha256 m = Config.freeDigest m :=
  if_neg (Nat.not_lt.2 h)

/-- The 32 bytes of a register are within the bound. -/
theorem sha256_bytesOf (v : Reg256) : sha256 (bytesOf v) = digestOfMessage (bytesOf v) :=
  sha256_of_lt (by simp [bytesOf])

/-! ### The fold -/

/-- The fold reads only the 256 entries of its file. -/
theorem foldBits_congr {f g : Nat → Bool} (h : ∀ j < 256, f j = g j) : foldBits f = foldBits g := by
  unfold foldBits
  congr 1
  apply List.map_congr_left
  intro k hk
  rw [List.mem_range] at hk
  unfold foldByte
  congr 2
  apply List.map_congr_left
  intro j hj
  rw [List.mem_range] at hj
  unfold foldBit
  rw [h (8 * k + j) (by omega), h (8 * k + j + 128) (by omega)]

/-! ### The collection -/

theorem acceptedBits_zero (st : Reg256) (c : Nat) : acceptedBits st c 0 = [] := rfl

theorem acceptedBits_succ (st : Reg256) (c m : Nat) :
    acceptedBits st c (m + 1) = blockBits (ratchetHash st c) ++ acceptedBits (ratchetHash st c) (c + 1) m := by
  simp [acceptedBits, entropyBlocks]

/-- More blocks only append to the accepted bits. -/
theorem acceptedBits_length_mono (st : Reg256) (c m k : Nat) :
    (acceptedBits st c m).length ≤ (acceptedBits st c (m + k)).length := by
  induction m generalizing st c with
  | zero => simp [acceptedBits_zero]
  | succ m ih =>
    rw [show m + 1 + k = (m + k) + 1 by omega, acceptedBits_succ, acceptedBits_succ]
    simp only [List.length_append]
    exact Nat.add_le_add_left (ih _ _) _

/-- A scan with the stop at the 256th bit keeps the first 256 accepted bits. -/
theorem scanBlock_eq (bytes : List Byte) (held : List Bool) (h : held.length ≤ 256) :
    scanBlock bytes held = (held ++ (bytes.filter acceptByte).map selectedBit).take 256 := by
  induction bytes generalizing held with
  | nil => simp [scanBlock, List.take_of_length_le h]
  | cons b rest ih =>
    unfold scanBlock Config.selectBits
    by_cases hfull : held.length = 256
    · simp [hfull]
    · rw [if_neg hfull]
      by_cases hb : acceptByte b = true
      · simp only [hb, if_true]
        rw [ih _ (by simp; omega)]
        simp [hb]
      · simp only [hb]
        rw [if_neg (by simp), ih _ h]
        simp [hb]

/-- How the collection loop ends: within its fuel it stops at the first block that supplies the 256th
bit; else it is exhausted after as many blocks as it has fuel. -/
theorem collectLoop_eq (fuel : Nat) (st : Reg256) (c : Nat) (held : List Bool) (h : held.length ≤ 256) :
    (∃ m ≤ fuel, (∀ k < m, held.length + (acceptedBits st c k).length < 256) ∧
      256 ≤ held.length + (acceptedBits st c m).length ∧
      collectLoop fuel st c held =
        .filled ((held ++ acceptedBits st c m).take 256) (stateAfter st c m) (c + m)) ∨
    (held.length + (acceptedBits st c fuel).length < 256 ∧
      collectLoop fuel st c held = .exhausted (stateAfter st c fuel) (c + fuel)) := by
  induction fuel generalizing st c held with
  | zero =>
    unfold collectLoop Config.selectBits
    by_cases hl : held.length < 256
    · right
      simp [hl, acceptedBits_zero, stateAfter]
    · left
      refine ⟨0, Nat.le_refl _, by simp, by simp [acceptedBits_zero]; omega, ?_⟩
      simp [hl, acceptedBits_zero, stateAfter, List.take_of_length_le h]
  | succ fuel ih =>
    unfold collectLoop Config.selectBits
    by_cases hl : held.length < 256
    · rw [if_pos hl, scanBlock_eq _ _ h]
      have hb : (held ++ ((bytesOf (ratchetHash st c)).filter acceptByte).map selectedBit).take 256 =
          (held ++ blockBits (ratchetHash st c)).take 256 := rfl
      rw [hb]
      by_cases hfull : 256 ≤ held.length + (blockBits (ratchetHash st c)).length
      · left
        refine ⟨1, by omega, ?_, ?_, ?_⟩
        · intro k hk
          have : k = 0 := by omega
          subst this
          simpa [acceptedBits_zero] using hl
        · simpa [acceptedBits_succ, acceptedBits_zero] using hfull
        · have hlen : ((held ++ blockBits (ratchetHash st c)).take 256).length = 256 := by
            simp; omega
          have hdone : ∀ f : Nat, collectLoop f (ratchetHash st c) (c + 1)
              ((held ++ blockBits (ratchetHash st c)).take 256) =
              .filled ((held ++ blockBits (ratchetHash st c)).take 256) (ratchetHash st c) (c + 1) := by
            intro f
            cases f <;> simp only [collectLoop, Config.selectBits, hlen, Nat.lt_irrefl, if_false]
          rw [hdone]
          simp [acceptedBits_succ, acceptedBits_zero, stateAfter]
      · have htake : (held ++ blockBits (ratchetHash st c)).take 256 = held ++ blockBits (ratchetHash st c) :=
          List.take_of_length_le (by simp; omega)
        rw [htake]
        have hle : (held ++ blockBits (ratchetHash st c)).length ≤ 256 := by simp; omega
        rcases ih (ratchetHash st c) (c + 1) _ hle with ⟨m, hm, hlt, hge, heq⟩ | ⟨hlt, heq⟩
        · left
          refine ⟨m + 1, by omega, ?_, ?_, ?_⟩
          · intro k hk
            cases k with
            | zero => simpa [acceptedBits_zero] using hl
            | succ k =>
              have := hlt k (by omega)
              simp only [List.length_append] at this
              simp only [acceptedBits_succ, List.length_append]
              omega
          · simp only [List.length_append] at hge
            simp only [acceptedBits_succ, List.length_append]
            omega
          · rw [heq, acceptedBits_succ, List.append_assoc]
            simp [stateAfter, Nat.add_assoc, Nat.add_comm 1 m]
        · right
          refine ⟨?_, ?_⟩
          · simp only [List.length_append] at hlt
            simp only [acceptedBits_succ, List.length_append]
            omega
          · rw [heq]
            simp [stateAfter, Nat.add_assoc, Nat.add_comm 1 fuel]
    · left
      refine ⟨0, by omega, by simp, by simp [acceptedBits_zero]; omega, ?_⟩
      rw [if_neg hl]
      simp [acceptedBits_zero, stateAfter, List.take_of_length_le h]

/-! ### The step -/

/-- Everything a step can be: reset, a waiting response, a fetched instruction, or a wait. -/
theorem step_cases (s : State) :
    (s.resetIn = true ∧ step s = .next s.afterReset) ∨
    (s.resetIn = false ∧ (∃ r, s.resp = some r) ∧ step s = .next s.waitForTake) ∨
    (s.resetIn = false ∧ s.resp = none ∧ ∃ i, fetch s = some i ∧ step s = exec i s) ∨
    (s.resetIn = false ∧ s.resp = none ∧ fetch s = none ∧ step s = .next s) := by
  unfold step
  cases hr : s.resetIn with
  | true => simp [exec, execReset]
  | false =>
    cases hp : s.resp with
    | some r => simp
    | none =>
      cases hf : fetch s with
      | some i => simp
      | none => simp

/-- What a step fetches: the presented command when an idle block runs at the transaction level, else the
micro-step of the phase. -/
theorem fetch_cases (s : State) (i : Instr) (h : fetch s = some i) :
    (s.level = .transaction ∧ phaseIdle s.phase = true ∧ ∃ w, s.cmd = some w ∧ i = decodeCommand w) ∨
    ((s.level = .micro ∨ phaseIdle s.phase = false) ∧ decodePhase (phaseCode s.phase) = .ok i) := by
  have hmicro : fetchMicro s = some i → decodePhase (phaseCode s.phase) = .ok i := by
    intro hm
    simp only [fetchMicro, decode, decodePhase_phaseCode, Except.toOption] at hm ⊢
    exact congrArg _ (Option.some.inj hm)
  unfold fetch at h
  cases hl : s.level with
  | micro =>
    rw [hl] at h
    exact .inr ⟨.inl rfl, hmicro h⟩
  | transaction =>
    rw [hl] at h
    by_cases hi : phaseIdle s.phase = true
    · simp only [hi, if_true, fetchCommand] at h
      cases hc : s.cmd with
      | none => simp [hc] at h
      | some w =>
        rw [hc] at h
        simp only [Option.bind_some, decode, Except.toOption] at h
        exact .inl ⟨rfl, hi, w, rfl, (Option.some.inj h).symm⟩
    · simp only [hi] at h
      exact .inr ⟨.inr (by simpa using hi), hmicro (by simpa using h)⟩

end Sys2Proof.Machine
end

