-- ==== Sys2Proof/Laws/PerInstr.lean ====
section
/-! SUPPORT. Families of statements about every instruction as syntax, one lemma per constructor. -/

namespace Sys2Proof.Laws.EncodingFormat

/-- The row's format in opcode_table.json: a command word where the format is CMD, a value of `PHASE` where
it is PHASE, nothing where it is SUBOP or INPUT. -/
def Statement (i : Instr) : Prop :=
  match i with
  | .init _ _ _ => ∃ w, encode i = some (.command w) ∧ opField w = 0b01
  | .next _ _ _ => ∃ w, encode i = some (.command w) ∧ opField w = 0b10
  | .reservedOp00 _ _ _ => ∃ w, encode i = some (.command w) ∧ opField w = 0b00
  | .reservedOp11 _ _ _ => ∃ w, encode i = some (.command w) ∧ opField w = 0b11
  | .ratchet => encode i = some (.phase 0b010)
  | .sift => encode i = some (.phase 0b011)
  | .fold => encode i = some (.phase 0b100)
  | .idleUninit => encode i = some (.phase 0b000)
  | .idleReady => encode i = some (.phase 0b001)
  | .idleFault => encode i = some (.phase 0b111)
  | .validate _ _ _ => encode i = none
  | .collect => encode i = none
  | .sha256 _ => encode i = none
  | .reset => encode i = none

/-- The operation field of an assembled word is the one it was assembled from. -/
theorem opField_commandWord (op : BitVec 2) (cfg : BitVec 6) (len : BitVec 8) (seed : Reg256) :
    opField (commandWord op cfg len seed) = op := by
  unfold opField commandWord
  ext j hj
  simp [BitVec.getElem_extractLsb', show 270 + j < 272 by omega, show ¬ 270 + j < 256 by omega,
    show ¬ 270 + j < 264 by omega, BitVec.getLsbD_of_ge cfg (270 + j - 264) (by omega),
    BitVec.getLsbD_of_ge len (270 + j - 256) (by omega), BitVec.getLsbD_of_ge seed (270 + j) (by omega),
    BitVec.getLsbD_eq_getElem hj]

theorem init (cfg : BitVec 6) (len : BitVec 8) (seed : Reg256) : Statement (.init cfg len seed) :=
  ⟨_, rfl, opField_commandWord _ _ _ _⟩
theorem next (cfg : BitVec 6) (len : BitVec 8) (seed : Reg256) : Statement (.next cfg len seed) :=
  ⟨_, rfl, opField_commandWord _ _ _ _⟩
theorem reservedOp00 (cfg : BitVec 6) (len : BitVec 8) (seed : Reg256) :
    Statement (.reservedOp00 cfg len seed) := ⟨_, rfl, opField_commandWord _ _ _ _⟩
theorem reservedOp11 (cfg : BitVec 6) (len : BitVec 8) (seed : Reg256) :
    Statement (.reservedOp11 cfg len seed) := ⟨_, rfl, opField_commandWord _ _ _ _⟩
theorem ratchet : Statement .ratchet := rfl
theorem sift : Statement .sift := rfl
theorem fold : Statement .fold := rfl
theorem idleUninit : Statement .idleUninit := rfl
theorem idleReady : Statement .idleReady := rfl
theorem idleFault : Statement .idleFault := rfl
theorem validate (cfg : BitVec 6) (len : BitVec 8) (seed : Reg256) : Statement (.validate cfg len seed) := rfl
theorem collect : Statement .collect := rfl
theorem sha256 (message : List Byte) : Statement (.sha256 message) := rfl
theorem reset : Statement .reset := rfl

end Sys2Proof.Laws.EncodingFormat
end

