-- ==== Sys2Proof/Laws/Step.lean ====
section
/-! SUPPORT. Inversion of the step: everything one step can be, with its guards, said once; and the two ways
a collection can end. -/

namespace Sys2Proof.Machine

open Sys2Proof.Safety

/-- The chain's closed form under `m` more ratchet steps (R35). -/
theorem stateAfter_chain (seed c m) : stateAfter (chain seed c) c m = chain seed (c+m) := by
  induction m generalizing c with
  | zero => rfl
  | succ m ih =>
    show stateAfter (chain seed (c+1)) (c+1) m = _
    rw [ih, show c + 1 + m = c + (m+1) by omega]

/-- The two ways COLLECT ends: with the first 256 accepted bits of the blocks consumed, or in the counter
fault after every block that was left (R142, R166). -/
theorem collect_cases (s : State) :
    (∃ m, m + 1 ≤ s.ctrMax - s.counter ∧
      collect s.ctrMax s.stateReg s.counter =
        .filled ((acceptedBits s.stateReg s.counter (m + 1)).take 256)
          (stateAfter s.stateReg s.counter (m + 1)) (s.counter + (m + 1))) ∨
    collect s.ctrMax s.stateReg s.counter =
      .exhausted (stateAfter s.stateReg s.counter (s.ctrMax - s.counter))
        (s.counter + (s.ctrMax - s.counter)) := by
  rcases collectLoop_eq (s.ctrMax - s.counter) s.stateReg s.counter [] (by simp) with
    ⟨m, hm, hlt, hge, heq⟩ | ⟨h1, h2⟩
  · left
    cases m with
    | zero => simp [acceptedBits_zero] at hge
    | succ m => exact ⟨m, hm, by simpa [collect] using heq⟩
  · right; simpa [collect] using h2


/-- Everything a step can be, with its guards. -/
theorem step_run {s t : State} (h : step s = .next t) :
   (s.resetIn = true ∧ t = s.afterReset) ∨
   (s.resetIn = false ∧ (∃ r, s.resp = some r) ∧ (t = s ∨ t = {s with resp := none})) ∨
   (s.resetIn = false ∧ s.resp = none ∧
     ( t = s ∨
       (phaseIdle s.phase = true ∧ ∃ e, t = s.accepted.raise e ∧ e ≠ .ok) ∨
       (s.phase = .uninit ∧ ∃ w cfg len seed, s.cmd = some w ∧ decodeCommand w = .init cfg len seed ∧
         initStatus s cfg len seed = .ok ∧ t = s.accepted.constructed seed (sha256 (bytesOf seed))) ∨
       (s.phase = .ready ∧ t = s.accepted.finishNext (collect s.ctrMax s.stateReg s.counter)) ∨
       (s.phase = .ready ∧ t = {s.accepted with n := 0, phase := .ratchet}) ∨
       (s.phase = .ratchet ∧ exhausted s = true ∧ t = s.counterFault) ∨
       (s.phase = .ratchet ∧ exhausted s = false ∧ t = { s.ratcheted with phase := .sift}) ∨
       (s.phase = .sift ∧ s.n < 256 ∧ t = s.sifted.afterSift) ∨
       (s.phase = .fold ∧ t = { s with phase := .ready }.respond .ok (foldBits (bitsRead s.bits))))) := by
  rcases step_cases s with ⟨h0, h1⟩ | ⟨h0, h00, h1⟩ | ⟨h0, h00, i, hf, h1⟩ | ⟨h0, h00, _, h1⟩ <;>
    rw [h1] at h
  · left; exact ⟨h0, (Host.Outcome.next.inj h).symm⟩
  · right; left; refine ⟨h0, h00, ?_⟩
    have := (Host.Outcome.next.inj h).symm
    unfold State.waitForTake at this; split_ifs at this <;> simp [this]
  · right; right; refine ⟨h0, h00, ?_⟩
    have hcons : ∀ cfg len seed w, s.phase = .uninit → s.cmd = some w →
        decodeCommand w = .init cfg len seed → t = s.accepted.construct cfg len seed →
      ( (phaseIdle s.phase = true ∧ ∃ e, t = s.accepted.raise e ∧ e ≠ .ok) ∨
       (s.phase = .uninit ∧ ∃ w cfg len seed, s.cmd = some w ∧ decodeCommand w = .init cfg len seed ∧
         initStatus s cfg len seed = .ok ∧ t = s.accepted.constructed seed (sha256 (bytesOf seed)))) := by
      intro cfg len seed w hp hw hd ht
      rw [construct_eq] at ht
      have e2 : initStatus s.accepted cfg len seed = initStatus s cfg len seed := rfl
      rw [e2] at ht
      by_cases ho : initStatus s cfg len seed = .ok
      · right; rw [if_pos ho] at ht; exact ⟨hp, w, cfg, len, seed, hw, hd, ho, ht⟩
      · left; rw [if_neg ho] at ht; exact ⟨by simp [hp, phaseIdle], _, ht, ho⟩
    rcases fetch_cases s i hf with ⟨_, hi, w, hw, rfl⟩ | ⟨_, hd⟩
    · have hr : cmdReady s = true := (cmdReady_iff s).2 ⟨hi, h00⟩
      cases hd : decodeCommand w <;> rw [hd] at h
      case init cfg len seed =>
        simp only [exec, execInit, hr, if_true] at h
        have ht := (Host.Outcome.next.inj h).symm
        unfold State.initCommand at ht
        simp only [State.accepted_phase] at ht
        rcases phaseIdle_cases hi with hp | hp | hp
        rotate_left
        · simp only [hp, reduceCtorEq, if_true, if_false] at ht
          right; left; exact ⟨hi, _, ht, by simp⟩
        · simp only [hp, if_true] at ht
          right; left; exact ⟨hi, _, ht, by simp⟩
        · simp only [hp, reduceCtorEq, if_false] at ht
          have this := hp
          rcases hcons cfg len seed w this hw hd ht with h | h
          · exact .inr (.inl h)
          · exact .inr (.inr (.inl h))
      case next cfg len seed =>
        simp only [exec, execNext, hr, if_true] at h
        have ht := (Host.Outcome.next.inj h).symm
        unfold State.nextCommand at ht
        simp only [State.accepted_phase] at ht
        rcases phaseIdle_cases hi with hp | hp | hp
        · simp only [hp, reduceCtorEq, if_true, if_false] at ht
          right; left; exact ⟨hi, _, ht, by simp⟩
        · simp only [hp, reduceCtorEq, if_false] at ht
          exact .inr (.inr (.inr (.inl ⟨hp, ht⟩)))
        · simp only [hp, if_true] at ht
          right; left; exact ⟨hi, _, ht, by simp⟩
      case reservedOp00 =>
        simp only [exec, execReservedOp00, hr, if_true] at h
        exact .inr (.inl ⟨hi, _, (Host.Outcome.next.inj h).symm, by simp⟩)
      case reservedOp11 =>
        simp only [exec, execReservedOp11, hr, if_true] at h
        exact .inr (.inl ⟨hi, _, (Host.Outcome.next.inj h).symm, by simp⟩)
      all_goals (exfalso; unfold decodeCommand at hd; split_ifs at hd)
    · rw [decodePhase_phaseCode] at hd
      have := Except.ok.inj hd
      subst this
      cases hp : s.phase <;> simp only [hp, exec] at h
      · unfold execIdleUninit at h
        cases ho : offered s with
        | none => rw [ho] at h; left; exact (Host.Outcome.next.inj h).symm
        | some w =>
          rw [ho] at h
          have hw := ((offered_eq_some_iff s w).1 ho).2
          have ht := (Host.Outcome.next.inj h).symm
          have hi : phaseIdle s.phase = true := by simp [hp, phaseIdle]
          unfold State.uninitDispatch at ht
          split_ifs at ht with ha
          · right; left; rw [← hp]; exact ⟨hi, _, ht, by simp⟩
          · right; left; rw [← hp]; exact ⟨hi, _, ht, by simp⟩
          · have hop : opField w = 0b01#2 := by
              rcases opField_cases w with h | h | h | h <;> simp_all [reservedOp]
            rcases hcons _ _ _ w hp hw (by simp [decodeCommand, hop]) ht with h | h
            · right; left; rw [← hp]; exact h
            · right; right; left; exact ⟨rfl, h.2⟩
      · unfold execIdleReady at h
        cases ho : offered s with
        | none => rw [ho] at h; left; exact (Host.Outcome.next.inj h).symm
        | some w =>
          rw [ho] at h
          have ht := (Host.Outcome.next.inj h).symm
          unfold State.readyDispatch at ht
          split_ifs at ht with ha
          · right; left; exact ⟨by simp [phaseIdle], _, ht, by simp⟩
          · right; left; exact ⟨by simp [phaseIdle], _, ht, by simp⟩
          · simp [ht]
      · unfold execRatchet at h
        split_ifs at h with he
        · simp [he, (Host.Outcome.next.inj h).symm]
        · simp [he, (Host.Outcome.next.inj h).symm]
      · unfold execSift Config.selectBits at h
        split_ifs at h with he
        simp [he, (Host.Outcome.next.inj h).symm]
      · unfold execFold at h
        simp [(Host.Outcome.next.inj h).symm]
      · unfold execIdleFault at h
        cases ho : offered s with
        | none => rw [ho] at h; left; exact (Host.Outcome.next.inj h).symm
        | some w =>
          rw [ho] at h
          have ht := (Host.Outcome.next.inj h).symm
          unfold State.faultDispatch at ht
          split_ifs at ht with ha
          · right; left; exact ⟨by simp [phaseIdle], _, ht, by simp⟩
          · right; left; exact ⟨by simp [phaseIdle], _, ht, by simp⟩
  · right; right; exact ⟨h0, h00, .inl (Host.Outcome.next.inj h).symm⟩

end Sys2Proof.Machine
end

