-- ==== Sys2Proof/Tests/Slice0.lean ====
section
/-! SUPPORT. The model's own tests, each with the source of its expected value, and one concrete state or
operand for the hypotheses of every statement that has some. -/

namespace Sys2Proof.Tests

open Sys2Proof.Machine Sys2Proof.Safety

set_option exponentiation.threshold 300

/-! ### Helpers -/

/-- The reference seed (R125). -/
def refSeed : Reg256 := 0x0000000000000000a8f4979b77e3f93fa8f4979b77e3f93fa8f4979b77e3f93f

/-- `S_0` of the reference seed (R35). -/
def chain0 : Reg256 := 0x096412ca0482ab0f519bc0e4ded667475c45495047653a21aa11e2c7c578fa6f

/-- `S_1` of the reference seed (V8). -/
def chain1 : Reg256 := 0xf77aba4a8bc8bf55e6112cd49ca7ab3b939d2d3b80144cd815d1a49ffc6c842d

/-- The word `INITREF` (V17). -/
def initRef : CmdWord := 0x40200000000000000000a8f4979b77e3f93fa8f4979b77e3f93fa8f4979b77e3f93f

/-- The word `NEXTW` (V17). -/
def nextW : CmdWord := 0x80000000000000000000000000000000000000000000000000000000000000000000

/-- A state in phase `p` holding the pair `(st, c)`, with the counter bound `bound`. -/
def at' (p : Phase) (st : Reg256) (c bound : Nat) : State :=
  { State.reset with phase := p, stateReg := st, counter := c, seed := refSeed, ctrMax := bound }

/-- The next state, if there is one. -/
def nextOf : Host.Outcome State Fault Refusal → Option State
  | .next t => some t
  | .fault _ => none
  | .refused _ => none

/-- What a host sees of an outcome, with `PHASE`, `STATE` and `COUNTER`. -/
def seen (o : Host.Outcome State Fault Refusal) : Option (Phase × Reg256 × Nat × Option Response) :=
  (nextOf o).map fun t => (t.phase, t.stateReg, t.counter, t.resp)

/-- The status and the phase an outcome answers with. -/
def answer (o : Host.Outcome State Fault Refusal) : Option (Option Status × Phase) :=
  (nextOf o).map fun t => (t.resp.map (·.status), t.phase)

/-! ### Well-formedness (R110) -/

theorem test_wellFormed_refuses_long_message :
    wellFormed (.sha256 (List.replicate (2 ^ 61) 0)) = false := by
  rw [wellFormed, List.length_replicate]
  decide

theorem test_wellFormed_accepts_55_bytes : wellFormed (.sha256 (List.replicate 55 0)) = true := by decide

/-! ### Encodings (words of V17 and R86, codes of R27 and R78) -/

theorem test_decode_init : decode (.command initRef) = .ok (.init 0 32 refSeed) := by decide
theorem test_decode_init_cfg63 :
    decode (.command 0x7f100000000000000000a8f4979b77e3f93f00000000000000000000000000000000) =
      .ok (.init 63 16 0x0000000000000000a8f4979b77e3f93f00000000000000000000000000000000) := by decide
theorem test_decode_next : decode (.command nextW) = .ok (.next 0 0 0) := by decide
theorem test_decode_next_ignored_bits :
    decode (.command 0xbfffffffffffffffffffffffffffffffffffffffffffffffffffffffffffffffffff) =
      .ok (.next 63 255 (BitVec.allOnes 256)) := by decide
theorem test_decode_op00 :
    decode (.command 0x00200000000000000000a8f4979b77e3f93fa8f4979b77e3f93fa8f4979b77e3f93f) =
      .ok (.reservedOp00 0 32 refSeed) := by decide
theorem test_decode_op11 :
    decode (.command 0xc0200000000000000000a8f4979b77e3f93fa8f4979b77e3f93fa8f4979b77e3f93f) =
      .ok (.reservedOp11 0 32 refSeed) := by decide
theorem test_decode_phases :
    decode (.phase 0b010) = .ok .ratchet ∧ decode (.phase 0b011) = .ok .sift ∧
    decode (.phase 0b100) = .ok .fold ∧ decode (.phase 0b000) = .ok .idleUninit ∧
    decode (.phase 0b001) = .ok .idleReady ∧ decode (.phase 0b111) = .ok .idleFault := by decide
theorem test_decode_refuses_reserved_phases :
    decode (.phase 0b101) = .error (.reservedPhase 0b101) ∧
    decode (.phase 0b110) = .error (.reservedPhase 0b110) := by decide
theorem test_decode_refuses_33_bytes :
    decodeBytes (List.replicate 33 0) = .error (.commandLength 33) := by decide
theorem test_encode_words :
    encode (.init 0 32 refSeed) = some (.command initRef) ∧ encode (.next 0 0 0) = some (.command nextW) ∧
    encode (.sha256 []) = none := by decide
theorem test_table_words :
    decodeTableWord 272 (2 ^ 270) = some (.init 0 0 0) ∧ decodeTableWord 272 (2 ^ 271) = some (.next 0 0 0) ∧
    decodeTableWord 3 4 = some .fold ∧ decodeTableWord 8 5 = none ∧ decodeTableWord 0 0 = none := by decide

/-- `W_LEN16`, `W_LEN33`, `W_LEN0` and `W_LEN300` of V17. -/
theorem test_assemble_lengths :
    assemble (.init 0 ((bytesOf refSeed).take 16)) =
      [.word 0x40100000000000000000a8f4979b77e3f93f00000000000000000000000000000000] ∧
    assemble (.init 0 (bytesOf refSeed ++ [0])) =
      [.word 0x40210000000000000000a8f4979b77e3f93fa8f4979b77e3f93fa8f4979b77e3f93f] ∧
    assemble (.init 0 []) = [.word 0x40000000000000000000000000000000000000000000000000000000000000000000] ∧
    assemble (.init 0 (bytesOf refSeed ++ List.replicate 268 0)) =
      [.word 0x40ff0000000000000000a8f4979b77e3f93fa8f4979b77e3f93fa8f4979b77e3f93f] := by decide +kernel

theorem test_assemble_next_times : assemble (.nextTimes 2) = [.word nextW, .word nextW] := by decide

/-- R85: every form of a line, and texts that are none. -/
theorem test_read_lines :
    readLine ['R', 'E', 'S', 'E', 'T', ' ', ';', ' ', 'x'] = some .reset ∧
    readLine ['N', 'E', 'X', 'T'] = some .next ∧
    readLine ['N', 'E', 'X', 'T', ' ', 'x', '1', '0'] = some (.nextTimes 10) ∧
    readLine ['I', 'N', 'I', 'T', ' ', '6', '3', ',', ' ', '0', '0', 'a', '8'] = some (.init 63 [0, 0xa8]) ∧
    readLine ['I', 'N', 'I', 'T', ' ', '5', ',', ' '] = some (.init 5 []) ∧
    readLine (['.', 'w', 'o', 'r', 'd', ' ', '8'] ++ List.replicate 67 '0') = some (.word nextW) ∧
    readLine ['I', 'N', 'I', 'T', ' ', '6', '4', ','] = none ∧ readLine ['S', 'I', 'F', 'T'] = none := by
  decide +kernel

/-- V18. -/
theorem test_response_words :
    responseWord ⟨.ok, 0x3c732e0d04dac163a5cc2b15c7caf42c⟩ = 0x03c732e0d04dac163a5cc2b15c7caf42c ∧
    responseWord ⟨.eFaulted, 0⟩ = 0x700000000000000000000000000000000 ∧
    responseText ⟨.eFaulted, 0⟩ = '7' :: List.replicate 32 '0' := by decide

/-- V12. -/
theorem test_dec :
    dec 0 = [0x30] ∧ dec 10 = [0x31, 0x30] ∧ dec 255 = [0x32, 0x35, 0x35] ∧
    dec 1000 = [0x31, 0x30, 0x30, 0x30] := by decide

/-- R12, and the seed text of R83. -/
theorem test_hex_and_unhex :
    hex (bytesOf (0x00a8f93f#32)) = ['0', '0', 'a', '8', 'f', '9', '3', 'f'] ∧
    unhex ['0', '0', 'a', '8', 'f', '9', '3', 'f'] = some [0x00, 0xa8, 0xf9, 0x3f] ∧
    unhex ['F'] = none := by decide

/-! ### SHA256 (V13) -/

/-- The first 64 primes (R104, R105). -/
def primes : List Nat := (List.range 312).filter fun p => 2 ≤ p && (List.range p).all fun d => d < 2 || p % d != 0

/-- `k` is the first 32 bits of the fractional part of the `e`-th root of `p`: with the root's integer part
before it, it is the root of `p * 2^(32e)` rounded down. -/
def isRootFraction (e p k : Nat) : Bool :=
  let whole := ((List.range 20).filter fun i => (i + 1) ^ e ≤ p).length
  let r := whole * 2 ^ 32 + k
  r ^ e ≤ p * 2 ^ (32 * e) && p * 2 ^ (32 * e) < (r + 1) ^ e

/-- R104 and R105: the constants are the fractions of cube roots and square roots that the rules say. -/
theorem test_constants_are_root_fractions :
    primes.length = 64 ∧ roundConstants.length = 64 ∧
    ((primes.zip roundConstants).all fun pk => isRootFraction 3 pk.1 pk.2.toNat) = true ∧
    ((primes.zip (wordsOfRow (digestOf initialHash))).all fun pk => isRootFraction 2 pk.1 pk.2.toNat) = true := by
  decide +kernel

theorem test_sha256_abc :
    (nextOf (exec (.sha256 [0x61, 0x62, 0x63]) State.reset)).map (·.result) =
      some (.digest 0xba7816bf8f01cfea414140de5dae2223b00361a396177a9cb410ff61f20015ad) := by decide +kernel

/-- The 56-byte ratchet message at counter `10^23`, two blocks. -/
theorem test_sha256_two_blocks :
    sha256 (ratchetMessage chain0 100000000000000000000000) =
      0xdd80a864162781338ccb7fbd9c9c3b7e9a6ef11218a233ef529fb6cef9c4ef14 := by decide +kernel

/-! ### The micro-steps -/

/-- V19, the row of `S_10`: the first two-digit counter. -/
theorem test_ratchet_step :
    seen (exec .ratchet
      (at' .ratchet 0xf21e642cfa68dcdf4a021cd5c08f8aaaa496dafdd791d849958de2d364ddd90b 10 100)) =
      some (.sift, 0x65e80434db12202e6bdd43a1e04ccf0a65e93e2e763b341e29ddd52863471917, 11, none) := by
  decide +kernel

/-- V26 at `CTR_MAX = 17`, the last step. -/
theorem test_ratchet_exhausted :
    seen (exec .ratchet (at' .ratchet chain1 17 17)) =
      some (.fault, chain1, 17, some ⟨.eCounterExhausted, 0⟩) := by decide

/-- V15, byte 0: `f7` is accepted and contributes 1. -/
theorem test_sift_accepts :
    (nextOf (exec .sift (at' .sift chain1 1 100))).map
      (fun t => (t.n, t.idx, t.phase, bitsRead t.bits 0, bitsRead t.bits 1)) =
      some (1, 1, .sift, true, false) := by decide

/-- V15, byte 31: `2d` is rejected and the block is finished. -/
theorem test_sift_last_byte :
    (nextOf (exec .sift { at' .sift chain1 1 100 with n := 10, idx := 31 })).map
      (fun t => (t.n, t.idx, t.phase)) = some (10, 31, .ratchet) := by decide

/-- V16, the collected bits of the first output (V10). -/
theorem test_fold_first_output :
    seen (exec .fold { at' .fold chain1 17 100 with
      n := 256, bits := 0xace69f6c7ce3ee659cb2a59ce87655f39095b16178392f06397e8e892fbca1df }) =
      some (.ready, chain1, 17, some ⟨.ok, 0x3c732e0d04dac163a5cc2b15c7caf42c⟩) := by decide

/-- V16, rows 5 and 6: only `BITS[128]`, only `BITS[127]`. -/
theorem test_fold_single_bits :
    foldBits (bitsRead 0x0000000000000000000000000000000080000000000000000000000000000000#256) =
      0x80000000000000000000000000000000 ∧
    foldBits (bitsRead 0x0000000000000000000000000000000100000000000000000000000000000000#256) = 1 := by
  decide

/-- P2, row 2: NEXT in `UNINIT`, as a micro-step. -/
theorem test_idleUninit_next :
    answer (exec .idleUninit { State.reset with cmd := some nextW }) =
      some (some .eNotReady, .uninit) := by decide

/-- V30, step 1: NEXT accepted, no response. -/
theorem test_idleReady_next :
    answer (exec .idleReady { at' .ready chain0 0 100 with cmd := some nextW }) =
      some (none, .ratchet) := by decide

/-- P3, rows 6 and 7. -/
theorem test_idleFault_words :
    answer (exec .idleFault { at' .fault chain1 17 17 with cmd := some initRef }) =
      some (some .eFaulted, .fault) ∧
    answer (exec .idleFault { at' .fault chain1 17 17 with cmd := some 0 }) =
      some (some .eIllegalCmd, .fault) := by decide

/-! ### The commands and the sub-operations -/

/-- P1, row 2. -/
theorem test_init_reference :
    seen (exec (.init 0 32 refSeed) State.reset) = some (.ready, chain0, 0, some ⟨.ok, 0⟩) := by decide +kernel

/-- V22, row 2: the last bit of the seed flipped. -/
theorem test_init_checksum :
    answer (exec (.init 0 32 (refSeed ^^^ 1)) State.reset) = some (some .eChecksum, .uninit) := by
  decide +kernel

/-- V26 at `CTR_MAX = 1`. -/
theorem test_next_exhausted :
    seen (exec (.next 0 0 0) (at' .ready chain0 0 1)) =
      some (.fault, chain1, 1, some ⟨.eCounterExhausted, 0⟩) := by decide +kernel

/-- V24, rows 4 and 6, and V28: a reserved word in `FAULT`. -/
theorem test_reserved_words :
    answer (exec (.reservedOp00 0 32 refSeed) State.reset) = some (some .eIllegalCmd, .uninit) ∧
    answer (exec (.reservedOp11 0 32 refSeed) (at' .fault chain1 17 17)) =
      some (some .eIllegalCmd, .fault) := by decide

/-- V1, V21's wrong length with the right bytes (R121), and V22's seed of zeros: with `witness_init`, the
cases of ValidateTestsLengthThenChecksum. -/
theorem test_validate :
    (nextOf (exec (.validate 0 32 refSeed) State.reset)).map (·.result) = some (.validated chain0) ∧
    (nextOf (exec (.validate 0 33 refSeed) State.reset)).map (·.result) = some (.rejected .eSeedLength) ∧
    (nextOf (exec (.validate 0 32 0) State.reset)).map (·.result) = some (.rejected .eChecksum) := by
  decide +kernel

/-- V26 at `CTR_MAX = 1`: the collection ends in the counter fault. -/
theorem test_collect_exhausted :
    (nextOf (exec .collect (at' .ready chain0 0 1))).map (fun t => (t.phase, t.stateReg, t.counter, t.result)) =
      some (.fault, chain1, 1, .rejected .eCounterExhausted) := by decide +kernel

/-- V29: reset in mid-stream. -/
theorem test_reset :
    answer (exec .reset (at' .sift chain1 1 100)) = some (none, .uninit) := by decide

/-! ### The step -/

/-- A word placed where the step fetches is the one it runs: NEXT is not ready, a reserved word illegal
(V20, V24). -/
theorem test_step_runs_placed_command :
    answer (step (State.reset.withFetchWord 272 (2 ^ 271))) = some (some .eNotReady, .uninit) ∧
    answer (step (State.reset.withFetchWord 272 0)) = some (some .eIllegalCmd, .uninit) := by decide

/-- A placed `PHASE` code selects its micro-step (R78). -/
theorem test_step_runs_placed_phase :
    answer (step (State.reset.withFetchWord 3 4)) = some (some .ok, .ready) ∧
    answer (step (State.reset.withFetchWord 3 3)) = some (none, .sift) := by decide

/-! ### What meets the hypotheses of the statements -/

theorem witness_decode_and_encode :
    encode (.init 63 255 (BitVec.allOnes 256)) =
      some (.command 0x7fffffffffffffffffffffffffffffffffffffffffffffffffffffffffffffffffff) ∧
    decode (.command 0x7fffffffffffffffffffffffffffffffffffffffffffffffffffffffffffffffffff) =
      .ok (.init 63 255 (BitVec.allOnes 256)) ∧
    encode .idleFault = some (.phase 7) ∧ decode (.phase 7) = .ok .idleFault := by decide

/-- StepRunsTheDecodedInstruction: a command at the transaction level, a micro-step at each level. -/
theorem witness_step_runs :
    (State.reset.resetIn = false ∧ State.reset.resp = none ∧ State.reset.level = .transaction ∧
      phaseIdle State.reset.phase = true) ∧ decode (.command nextW) = .ok (.next 0 0 0) ∧
    phaseIdle (at' .fold chain1 17 17).phase = false ∧
    decode (.phase (phaseCode (at' .fold chain1 17 17).phase)) = .ok .fold ∧
    decode (.phase (phaseCode State.reset.phase)) = .ok .idleUninit := by decide

/-- StepHonoursResetAndHandshake: each of its four cases. -/
theorem witness_step_honours :
    answer (step { State.reset with resetIn := true, resp := some ⟨.ok, 0⟩ }) = some (none, .uninit) ∧
    answer (step { State.reset with resp := some ⟨.ok, 0⟩ }) = some (some .ok, .uninit) ∧
    answer (step { State.reset with resp := some ⟨.ok, 0⟩, respReady := true }) = some (none, .uninit) ∧
    answer (step State.reset) = some (none, .uninit) := by decide

/-- ResetStateIsInvariant, ResetAbandonsEverything: a configured block with a second registry entry (V31) and
the smallest counter bound. -/
theorem witness_configured :
    Configured { State.reset with
      registry := [Config.entry0,
        ⟨32, 0x630dcd2966c4336691125448bbb25b4ff412a49c732db2c8abc1b8581bd710dd⟩]
      ctrMax := 1 } :=
  ⟨by decide, by decide⟩

/-- A READY state with a command on the port: the invariant's non-trivial instance. -/
def readyState : State := { at' .ready chain0 0 17 with cmd := some 0 }

theorem witness_invariant : Inv readyState where
  configured := ⟨by decide, by decide⟩
  chain := fun _ => ⟨by decide +kernel, by decide⟩
  gate := fun _ => ⟨Config.entry0, by decide, by decide +kernel⟩
  fault := by decide
  collecting := by decide
  folding := by decide
  silent := by decide
  clean := fun _ h => by cases h
  wire := rfl

/-- StepKeepsInvariant, OnlyRatchetsMoveStateAndCounter, ConfigurationNeverChanges: the state steps. -/
theorem witness_ready_steps :
    answer (step readyState) = some (some .eIllegalCmd, .ready) ∧ readyState.phase ≠ .uninit ∧
    readyState.resetIn = false := by decide

/-- MicroStepsAgreeWithCommands: a NEXT about to be accepted. -/
theorem witness_micro :
    ({ readyState with level := .micro, cmd := some nextW } : State).level = .micro ∧
    cmdReady { readyState with level := .micro, cmd := some nextW } = true ∧
    ({ readyState with level := .micro, cmd := some nextW } : State).resetIn = false := by decide

/-- UnspecifiedRegistersNeverShow: two `UNINIT` states with different leftovers. -/
theorem witness_same_to_host :
    SameToHost State.reset { State.reset with stateReg := 5, counter := 7, bits := 9, n := 256, idx := 3 } ∧
    answer (step State.reset) = some (none, .uninit) := by
  refine ⟨⟨rfl, rfl, rfl, rfl, rfl, rfl, rfl, rfl, ?_, ?_, ?_, ?_⟩, by decide⟩ <;>
    simp [State.reset, busy, phaseIdle]

/-- CommandReportsFirstStatus, PhaseFollowsTransitionTable, RefusedCommandsChangeNothing,
IllegalCommandsAreAnswered: an INIT with `cfg = N_CFG` on a ready port. -/
theorem witness_commands :
    isCommand (.init 1 32 refSeed) = true ∧ cmdReady State.reset = true ∧
    commandStatus State.reset (.init 1 32 refSeed) = .eIllegalCmd ∧
    State.reset.registry.length ≤ (1 : BitVec 6).toNat := by decide

/-- InitFollowsItsRule: each of its six cases, at the bounds of `cfg` and `len`. -/
theorem witness_init :
    cmdReady (at' .fault chain1 1 1) = true ∧ cmdReady (at' .ready chain0 0 1) = true ∧
    State.reset.registry.length ≤ (1 : BitVec 6).toNat ∧
    State.reset.registry[(0 : BitVec 6).toNat]? = some Config.entry0 ∧
    (31 : BitVec 8) ≠ Config.entry0.seedLen ∧ (33 : BitVec 8) ≠ Config.entry0.seedLen ∧
    (32 : BitVec 8) = Config.entry0.seedLen ∧
    sha256 (bytesOf (0 : Reg256)) ≠ Config.entry0.checksum ∧
    sha256 (bytesOf refSeed) = Config.entry0.checksum := by decide +kernel

/-- NextFaultsWhenCounterRunsOut, CollectFaultsWhenCounterRunsOut, NextEndsWithinTheCounterBound: with one
ratchet step left and with none. -/
theorem witness_next_faults :
    (bitsBeforeExhaustion (at' .ready chain0 0 1)).length = 10 ∧
    bitsBeforeExhaustion (at' .ready chain1 1 1) = [] ∧
    (at' .ready chain1 1 1).counter ≤ (at' .ready chain1 1 1).ctrMax := by decide +kernel

/-- CommandsWaitForTheirPort: a busy phase, and a response not yet taken. -/
theorem witness_port_not_ready :
    isCommand (.next 0 0 0) = true ∧ cmdReady (at' .sift chain1 1 100) = false ∧
    cmdReady { State.reset with resp := some ⟨.ok, 0⟩ } = false := by decide

/-- RatchetStepFollowsItsRule: at the bound and one below it. -/
theorem witness_ratchet :
    (at' .ratchet chain1 17 17).counter = (at' .ratchet chain1 17 17).ctrMax ∧
    (at' .ratchet chain1 16 17).counter < (at' .ratchet chain1 16 17).ctrMax := by decide

/-- SiftStepFollowsItsRule and SiftStopsWithFullBits, on both sides of the bound: the 256th bit from byte 13
of `S_1` (`a7`, accepted). -/
theorem witness_sift :
    (nextOf (exec .sift { at' .sift chain1 1 100 with n := 255, idx := 13 })).map
      (fun t => (t.n, t.idx, t.phase, bitsRead t.bits 255)) = some (256, 13, .fold, true) ∧
    256 ≤ ({ at' .sift chain1 1 100 with n := 256 } : State).n := by decide

/-- UninitStepFollowsItsRule, ReadyStepFollowsItsRule, FaultStepFollowsItsRule: a word of each `op`. -/
theorem witness_idle_words :
    opField 0 = 0b00 ∧ opField (BitVec.allOnes 272) = 0b11 ∧ opField nextW = 0b10 ∧ opField initRef = 0b01 ∧
    initStatus State.reset (cfgField initRef) (lenField initRef) (seedField initRef) = .ok ∧
    initStatus State.reset (cfgField initRef) 0 (seedField initRef) = .eSeedLength := by decide +kernel

/-- IdleStepsWaitForAWord: no word, and a response in the way. -/
theorem witness_idle_waits :
    State.reset.cmd = none ∧ ({ State.reset with resp := some ⟨.ok, 0⟩ } : State).resp.isSome = true := by decide

/-- PaddingIsMinimal and BlockScanCutsAt256 at their bounds (R110: 55 bytes are one block, 56 two). -/
theorem witness_padding_and_scan :
    (padMessage (List.replicate 55 0)).length = 64 ∧ (padMessage (List.replicate 56 0)).length = 128 ∧
    (List.replicate 256 true).length ≤ 256 := by decide +kernel

/-- FaultIsStickyUntilReset: a state in `FAULT`, with and without reset. -/
theorem witness_fault :
    answer (step { at' .fault chain1 1 1 with cmd := some nextW }) = some (some .eFaulted, .fault) ∧
    answer (step { at' .fault chain1 1 1 with resetIn := true }) = some (none, .uninit) := by decide

/-- OnlyVerifiedSeedsLeaveUninit: the reference INIT leaves `UNINIT`. -/
theorem witness_leaves_uninit :
    answer (step { State.reset with cmd := some initRef }) = some (some .ok, .ready) := by decide +kernel

/-- BusyPhasesAnswerOnlyOnLeaving: FOLD answers. -/
theorem witness_busy_answers :
    busy (at' .fold chain1 17 17) = true ∧ (at' .fold chain1 17 17).resp = none ∧
    answer (step (at' .fold chain1 17 17)) = some (some .ok, .ready) := by decide

/-! ### The first NEXT of the reference seed, the two long evaluations -/

/-- V3 and V5, row 1: the first output, after 17 ratchet steps. -/
theorem test_next_first_output :
    seen (exec (.next 0 0 0) (at' .ready chain0 0 17)) =
      some (.ready, 0x93150195a24aacde978f4ff129b73a74ec5f69d8f2f720916bebe4f8d1a6ee21, 17,
        some ⟨.ok, 0x3c732e0d04dac163a5cc2b15c7caf42c⟩) := by decide +kernel

/-- NextFoldsFirst256AcceptedBits, CollectTakesFirst256AcceptedBits: the first NEXT of the reference seed,
with the counter bound it just meets (V10: 249 bits before the 17th block). -/
theorem witness_next_folds :
    16 < (at' .ready chain0 0 17).ctrMax - (at' .ready chain0 0 17).counter ∧
    (acceptedBits chain0 0 16).length = 249 ∧ 256 ≤ (acceptedBits chain0 0 17).length := by decide +kernel

theorem seen_resp {o : Host.Outcome State Fault Refusal} {p : Phase} {st : Reg256} {c : Nat}
    {r : Option Response} (h : seen o = some (p, st, c, r)) : ∃ t, o = .next t ∧ t.resp = r := by
  cases o with
  | next t =>
    simp only [seen, nextOf, Option.map_some, Option.some.injEq, Prod.mk.injEq] at h
    exact ⟨t, rfl, h.2.2.2⟩
  | fault _ => cases h
  | refused _ => cases h

/-- OutputCostsAtLeastEightRatchets: a NEXT that answers. -/
theorem witness_output :
    ∃ t, exec (.next 0 0 0) (at' .ready chain0 0 17) = .next t ∧
      t.resp = some ⟨.ok, 0x3c732e0d04dac163a5cc2b15c7caf42c⟩ :=
  seen_resp test_next_first_output

end Sys2Proof.Tests
end

section
/-! Command words by mask and match, and the decimal counter text (30_encoding.md R71, R73, R80). -/

open Sys2Proof Sys2Proof.Machine

namespace Sys2Proof

/-! ### R73: mask and match -/

/-- A word with every other field 0 is its `op` at bit 270 (R71). -/
theorem commandWord_zero_fields (op : BitVec 2) : commandWord op 0 0 0 = op.setWidth 272 <<< 270 := by
  simp [commandWord]

/-- The mask `c0` followed by 66 zeros keeps the bits of `op` and no other. -/
theorem and_opMask (w : CmdWord) : w &&& (0xc0#272 <<< 264) = commandWord (opField w) 0 0 0 := by
  have hmask : 0xc0#272 <<< 264 = (BitVec.allOnes 2).setWidth 272 <<< 270 := rfl
  rw [hmask, commandWord_zero_fields]
  ext i hi
  simp only [BitVec.getElem_and, BitVec.getElem_shiftLeft, BitVec.getElem_setWidth, BitVec.getLsbD_allOnes]
  by_cases hop : i < 270
  · simp [hop]
  · have hwidth : i - 270 < 2 := by omega
    have hbit : 270 + (i - 270) = i := by omega
    simp [opField, hop, hwidth, hbit, hi]

/-- A word meets the match of a row exactly when its `op` is the row's. -/
theorem and_opMask_eq_iff (w : CmdWord) {m : CmdWord} {op : BitVec 2} (hm : m = op.setWidth 272 <<< 270) :
    w &&& (0xc0#272 <<< 264) = m ↔ opField w = op := by
  rw [and_opMask, hm, ← commandWord_zero_fields]
  constructor
  · intro h
    simpa only [Laws.EncodingFormat.opField_commandWord] using congrArg opField h
  · rintro rfl
    rfl

/-- The command each `op` names (R73). -/
theorem decodeCommand_eq_iff (w : CmdWord) :
    (decodeCommand w = .init (cfgField w) (lenField w) (seedField w) ↔ opField w = 0b01) ∧
    (decodeCommand w = .next (cfgField w) (lenField w) (seedField w) ↔ opField w = 0b10) ∧
    (decodeCommand w = .reservedOp00 (cfgField w) (lenField w) (seedField w) ↔ opField w = 0b00) ∧
    (decodeCommand w = .reservedOp11 (cfgField w) (lenField w) (seedField w) ↔ opField w = 0b11) := by
  rcases opField_cases w with hop | hop | hop | hop <;> simp [decodeCommand, hop]

end Sys2Proof

/-- Settles O3: masking leaves `op` alone, and `op` alone names the command. -/
theorem commandWordsMatchTheirRows : Obligations.CommandWordsMatchTheirRows := by
  intro w
  obtain ⟨hinit, hnext, h00, h11⟩ := decodeCommand_eq_iff w
  have matchInit : 0x40#272 <<< 264 = (0b01#2).setWidth 272 <<< 270 := rfl
  have matchNext : 0x80#272 <<< 264 = (0b10#2).setWidth 272 <<< 270 := rfl
  have match00 : 0#272 = (0b00#2).setWidth 272 <<< 270 := rfl
  have match11 : 0xc0#272 <<< 264 = (0b11#2).setWidth 272 <<< 270 := rfl
  exact ⟨(and_opMask_eq_iff w matchInit).trans hinit.symm, (and_opMask_eq_iff w matchNext).trans hnext.symm,
    (and_opMask_eq_iff w match00).trans h00.symm, (and_opMask_eq_iff w match11).trans h11.symm⟩

namespace Sys2Proof.Machine

/-! ### R80: the decimal counter text -/

/-- Induction over a number's decimal digits, the last one taken off at each step. -/
theorem decimal_induction {P : Nat → Prop} (digit : ∀ c < 10, P c)
    (more : ∀ c, 10 ≤ c → P (c / 10) → P c) (c : Nat) : P c := by
  induction c using Nat.strongRecOn with
  | ind c ih =>
    rcases Nat.lt_or_ge c 10 with h | h
    · exact digit c h
    · exact more c h (ih (c / 10) (by omega))

/-- Fuel above the number is enough: how much more there is does not matter. -/
theorem decDigits_fuel {c fuel fuel' : Nat} (h : c < fuel) (h' : c < fuel') :
    decDigits fuel c = decDigits fuel' c := by
  induction fuel generalizing c fuel' with
  | zero => exact absurd h (Nat.not_lt_zero c)
  | succ k ih =>
    cases fuel' with
    | zero => exact absurd h' (Nat.not_lt_zero c)
    | succ k' =>
      by_cases hc : c < 10
      · simp [decDigits, hc]
      · simp [decDigits, hc, ih (c := c / 10) (fuel' := k') (by omega) (by omega)]

theorem dec_of_lt {c : Nat} (h : c < 10) : dec c = [BitVec.ofNat 8 (0x30 + c)] := if_pos h

theorem dec_of_ge {c : Nat} (h : 10 ≤ c) :
    dec c = dec (c / 10) ++ [BitVec.ofNat 8 (0x30 + c % 10)] := by
  have hfuel : decDigits c (c / 10) = dec (c / 10) := decDigits_fuel (by omega) (by omega)
  rw [← hfuel]
  exact if_neg h.not_gt

/-- The ASCII code of a digit fits its byte. -/
theorem digit_toNat {d : Nat} (h : d < 10) : (BitVec.ofNat 8 (0x30 + d)).toNat = 0x30 + d :=
  Nat.mod_eq_of_lt (by omega)

theorem dec_ne_nil (c : Nat) : dec c ≠ [] := by
  rcases Nat.lt_or_ge c 10 with h | h
  · simp [dec_of_lt h]
  · simp [dec_of_ge h]

/-- The digits of `dec c`, read in base 10, give `c` back. -/
theorem dec_value (c : Nat) : (dec c).foldl (fun v b => 10 * v + (b.toNat - 0x30)) 0 = c := by
  induction c using decimal_induction with
  | digit c hc => simp [dec_of_lt hc, digit_toNat hc]
  | more c hc ih =>
    have hlast : (BitVec.ofNat 8 (0x30 + c % 10)).toNat - 0x30 = c % 10 := by
      rw [digit_toNat (Nat.mod_lt c (by decide)), Nat.add_sub_cancel_left]
    rw [dec_of_ge hc, List.foldl_append, ih, List.foldl_cons, List.foldl_nil, hlast]
    exact Nat.div_add_mod c 10

theorem dec_digit_range (c : Nat) : ∀ b ∈ dec c, 0x30 ≤ b.toNat ∧ b.toNat ≤ 0x39 := by
  have hdigit : ∀ d < 10, 0x30 ≤ (BitVec.ofNat 8 (0x30 + d)).toNat ∧
      (BitVec.ofNat 8 (0x30 + d)).toNat ≤ 0x39 := by
    intro d hd
    rw [digit_toNat hd]
    omega
  induction c using decimal_induction with
  | digit c hc => simpa only [dec_of_lt hc, List.forall_mem_singleton] using hdigit c hc
  | more c hc ih =>
    rw [dec_of_ge hc, List.forall_mem_append, List.forall_mem_singleton]
    exact ⟨ih, hdigit (c % 10) (Nat.mod_lt c (by decide))⟩

/-- No leading zero: only the text of 0 begins with `'0'`. -/
theorem eq_zero_of_dec_head (c : Nat) : (dec c).head? = some 0x30 → c = 0 := by
  induction c using decimal_induction with
  | digit c hc =>
    intro h
    have hbyte : BitVec.ofNat 8 (0x30 + c) = 0x30 := by simpa [dec_of_lt hc] using h
    have hcode := digit_toNat hc
    rw [hbyte] at hcode
    exact Nat.left_eq_add.mp hcode
  | more c hc ih =>
    intro h
    rw [dec_of_ge hc, List.head?_append_of_ne_nil _ (dec_ne_nil _)] at h
    have := ih h
    omega

end Sys2Proof.Machine

/-- Settles O7: the recursion of `dec`, and what follows from it by induction on the digits. -/
theorem counterTextIsDecimal : Obligations.CounterTextIsDecimal := by
  intro c
  refine ⟨?_, dec_value c, dec_digit_range c, eq_zero_of_dec_head c, dec_of_lt (by decide)⟩
  split
  next h => exact dec_of_lt h
  next h => exact dec_of_ge (Nat.le_of_not_lt h)
end

section
/-! The acceptance test of a byte and the bit it contributes (43_bit_selector.md R140). -/

open Sys2Proof Sys2Proof.Machine

namespace Sys2Proof.Machine

theorem acceptByte_iff (b : Byte) : acceptByte b = true ↔ b.getLsbD 1 = b.getLsbD 2 := beq_iff_eq

theorem selectedBit_eq_getLsbD (b : Byte) : selectedBit b = b.getLsbD 0 := rfl

/-- The mask `06` keeps bits 1 and 2 and no other. -/
theorem and_06_eq_and_06_iff (b m : Byte) :
    b &&& 0x06 = m &&& 0x06 ↔ b.getLsbD 1 = m.getLsbD 1 ∧ b.getLsbD 2 = m.getLsbD 2 := by
  constructor
  · intro h
    have hbit (i : Nat) : (b &&& 0x06).getLsbD i = (m &&& 0x06).getLsbD i := congrArg (·.getLsbD i) h
    exact ⟨by simpa using hbit 1, by simpa using hbit 2⟩
  · rintro ⟨h1, h2⟩
    have hmask : ∀ i < 8, (0x06 : Byte).getLsbD i = true → i = 1 ∨ i = 2 := by decide
    refine BitVec.eq_of_getLsbD_eq fun i hi => ?_
    rw [BitVec.getLsbD_and, BitVec.getLsbD_and]
    cases hkept : (0x06 : Byte).getLsbD i with
    | false => rw [Bool.and_false, Bool.and_false]
    | true =>
      rw [Bool.and_true, Bool.and_true]
      rcases hmask i hi hkept with rfl | rfl
      · exact h1
      · exact h2

/-- R140's first equivalent form: bits 1 and 2 both clear, or both set. -/
theorem acceptByte_iff_and_06 (b : Byte) :
    acceptByte b = true ↔ b &&& 0x06 = 0x00 ∨ b &&& 0x06 = 0x06 := by
  have hclear : b &&& 0x06 = 0x00 ↔ b.getLsbD 1 = false ∧ b.getLsbD 2 = false :=
    and_06_eq_and_06_iff b 0x00
  have hset : b &&& 0x06 = 0x06 ↔ b.getLsbD 1 = true ∧ b.getLsbD 2 = true :=
    and_06_eq_and_06_iff b 0x06
  rw [acceptByte_iff, hclear, hset]
  cases b.getLsbD 1 <;> simp

/-- R140's second equivalent form: the shifts bring bits 1 and 2 to bit 0, where they are compared. -/
theorem acceptByte_iff_xor_shifts (b : Byte) :
    acceptByte b = true ↔ ((b >>> 1) ^^^ (b >>> 2)) &&& 1 = 0 := by
  have hlow (x : Byte) : x &&& 1 = 0 ↔ x.getLsbD 0 = false := by
    rw [show (1 : Byte) = 1#8 from rfl, BitVec.and_one_eq_setWidth_ofBool_getLsbD]
    cases x.getLsbD 0 <;> decide
  rw [acceptByte_iff, hlow, BitVec.getLsbD_xor, BitVec.getLsbD_ushiftRight, BitVec.getLsbD_ushiftRight]
  exact bne_eq_false_iff_eq.symm

/-- The mask `07` keeps bits 0 to 2. -/
theorem getLsbD_and_07 (b : Byte) {i : Nat} (hi : i < 3) : (b &&& 0x07).getLsbD i = b.getLsbD i := by
  have hmask : ∀ i < 3, (0x07 : Byte).getLsbD i = true := by decide
  rw [BitVec.getLsbD_and, hmask i hi, Bool.and_true]

theorem acceptByte_and_07 (b : Byte) : acceptByte (b &&& 0x07) = acceptByte b := by
  rw [Bool.eq_iff_iff, acceptByte_iff, acceptByte_iff, getLsbD_and_07 b (by decide),
    getLsbD_and_07 b (by decide)]

theorem selectedBit_and_07 (b : Byte) : selectedBit (b &&& 0x07) = selectedBit b :=
  getLsbD_and_07 b (by decide)

end Sys2Proof.Machine

/-- Settles O39: each form of R140 by the bits its masks and shifts keep; the examples by evaluation. -/
theorem acceptanceComparesBitsOneAndTwo : Obligations.AcceptanceComparesBitsOneAndTwo :=
  ⟨fun b => ⟨acceptByte_iff b, selectedBit_eq_getLsbD b, acceptByte_iff_and_06 b,
    acceptByte_iff_xor_shifts b, (acceptByte_and_07 b).symm, (selectedBit_and_07 b).symm⟩, by decide⟩
end

section
/-! The xor folder (44_xor_folder.md R151, R153, R154). Everything is read MSB first: `getMsbD i` of the
folded bus is output bit `i`, and `getMsbD j` of a packed file is its entry `j`. -/

open Sys2Proof Sys2Proof.Machine

namespace Sys2Proof.Machine

/-! ### The bits of a byte string on a bus -/

/-- Within the width, counting from the top mirrors counting from the bottom. -/
theorem getMsbD_eq_getLsbD_of_lt {w i : Nat} (v : BitVec w) (hi : i < w) :
    v.getMsbD i = v.getLsbD (w - 1 - i) := by
  rw [BitVec.getMsbD_eq_getLsbD, decide_eq_true hi, Bool.true_and]

theorem ofBytes_concat (w : Nat) (bs : List Byte) (b : Byte) :
    ofBytes w (bs ++ [b]) = (ofBytes w bs <<< 8) ||| b.setWidth w := by
  simp [ofBytes]

/-- Bit `i` of a bus stands in the byte that is `i / 8` bytes from the last one (R14). -/
theorem getLsbD_ofBytes {w i : Nat} (hi : i < w) (bs : List Byte) :
    (ofBytes w bs).getLsbD i = (bs.reverse.getD (i / 8) 0).getLsbD (i % 8) := by
  induction bs using List.reverseRecOn generalizing i with
  | nil => simp [ofBytes]
  | append_singleton bs b ih =>
    rw [ofBytes_concat, List.reverse_concat, BitVec.getLsbD_or, BitVec.getLsbD_shiftLeft,
      BitVec.getLsbD_setWidth]
    by_cases hlast : i < 8
    · simp [hlast, hi, Nat.div_eq_of_lt hlast, Nat.mod_eq_of_lt hlast]
    · have hdiv : i / 8 = (i - 8) / 8 + 1 := by omega
      have hmod : i % 8 = (i - 8) % 8 := by omega
      have hout : b.getLsbD i = false := BitVec.getLsbD_of_ge b i (by omega)
      rw [hdiv, hmod, List.getD_cons_succ, ← ih (show i - 8 < w by omega)]
      simp [hlast, hi, hout]

/-- Where the bytes fill the bus, its bit `i` from the top is bit `i % 8` from the top of byte `i / 8`. -/
theorem getMsbD_ofBytes {w i : Nat} {bs : List Byte} (hw : w = 8 * bs.length) (hi : i < w) :
    (ofBytes w bs).getMsbD i = (bs.getD (i / 8) 0).getMsbD (i % 8) := by
  have hbyte : (w - 1 - i) / 8 < bs.length := by omega
  have hdiv : bs.length - 1 - (w - 1 - i) / 8 = i / 8 := by omega
  have hmod : (w - 1 - i) % 8 = 8 - 1 - i % 8 := by omega
  rw [getMsbD_eq_getLsbD_of_lt _ hi, getLsbD_ofBytes (by omega), List.getD_reverse _ hbyte, hdiv, hmod,
    getMsbD_eq_getLsbD_of_lt _ (Nat.mod_lt i (by decide))]

/-- Byte `k` of a register is its bits `8 k` to `8 k + 7` from the top (R14). -/
theorem getMsbD_byteAt {w k j : Nat} (v : BitVec w) (hk : 8 * k + 8 ≤ w) (hj : j < 8) :
    (byteAt v k).getMsbD j = v.getMsbD (8 * k + j) := by
  have hin : w - 8 - 8 * k + 8 - j ≤ w := by omega
  have hpos : w - (w - 8 - 8 * k + 8 - j) = 8 * k + j := by omega
  rw [byteAt, BitVec.getMsbD_extractLsb', hpos, decide_eq_true hj, decide_eq_true hin,
    Bool.true_and, Bool.true_and]

/-! ### Bits packed by their weights -/

/-- The number whose `n` binary digits are `g 0`, `g 1`, and so on, the first at weight `2 ^ (n - 1)`: the sum
of R150 for any number of bits. -/
def packBits (g : Nat → Bool) (n : Nat) : Nat :=
  ((List.range n).map fun j => (g j).toNat * 2 ^ (n - 1 - j)).sum

theorem foldByte_eq_packBits (bit : Nat → Bool) (k : Nat) :
    foldByte bit k = BitVec.ofNat 8 (packBits (fun j => foldBit bit (8 * k + j)) 8) := rfl

/-- The first bit has the greatest weight. -/
theorem packBits_succ (g : Nat → Bool) (n : Nat) :
    packBits g (n + 1) = 2 ^ n * (g 0).toNat + packBits (fun j => g (j + 1)) n := by
  have hweight (j : Nat) : n + 1 - 1 - (j + 1) = n - 1 - j := by omega
  simp only [packBits, List.range_succ_eq_map, List.map_cons, List.map_map, List.sum_cons,
    Function.comp_def, hweight]
  rw [Nat.mul_comm, Nat.add_sub_cancel, Nat.sub_zero]

theorem packBits_lt (g : Nat → Bool) (n : Nat) : packBits g n < 2 ^ n := by
  induction n generalizing g with
  | zero => simp [packBits]
  | succ n ih =>
    have hrest := ih fun j => g (j + 1)
    have hfirst : 2 ^ n * (g 0).toNat ≤ 2 ^ n * 1 := Nat.mul_le_mul_left _ (Bool.toNat_le _)
    rw [packBits_succ, Nat.pow_succ]
    omega

theorem testBit_packBits (g : Nat → Bool) {n i : Nat} (hi : i < n) :
    (packBits g n).testBit (n - 1 - i) = g i := by
  induction n generalizing g i with
  | zero => exact absurd hi (Nat.not_lt_zero i)
  | succ n ih =>
    rw [packBits_succ, Nat.testBit_two_pow_mul_add _ (packBits_lt _ n)]
    cases i with
    | zero => cases g 0 <;> simp
    | succ i =>
      have hbit : n + 1 - 1 - (i + 1) = n - 1 - i := by omega
      rw [hbit, if_pos (by omega)]
      exact ih (fun j => g (j + 1)) (by omega)

/-! ### The bits of the fold -/

theorem getMsbD_foldByte (bit : Nat → Bool) (k : Nat) {j : Nat} (hj : j < 8) :
    (foldByte bit k).getMsbD j = foldBit bit (8 * k + j) := by
  rw [foldByte_eq_packBits, getMsbD_eq_getLsbD_of_lt _ hj, BitVec.getLsbD_ofNat, testBit_packBits _ hj,
    decide_eq_true (show 8 - 1 - j < 8 by omega), Bool.true_and]

/-- Lane `i`: output bit `i` is the exclusive or of the entries `i` and `i + 128` (R153). -/
theorem getMsbD_foldBits (bit : Nat → Bool) {i : Nat} (hi : i < 128) :
    (foldBits bit).getMsbD i = (bit i ^^ bit (i + 128)) := by
  have hbyte : ((List.range 16).map (foldByte bit)).getD (i / 8) 0 = foldByte bit (i / 8) := by
    rw [List.getD_eq_getElem _ _ (by simp; omega), List.getElem_map, List.getElem_range]
  rw [foldBits, getMsbD_ofBytes (by simp) hi, hbyte, getMsbD_foldByte _ _ (Nat.mod_lt i (by decide)),
    Nat.div_add_mod, foldBit]

/-! ### The halves of the file -/

theorem getMsbD_firstHalf (bits : Reg256) {i : Nat} (hi : i < 128) :
    (bits.extractLsb' 128 128).getMsbD i = bitsRead bits i := by
  have hpos : 256 - (128 + 128 - i) = i := by omega
  simp [BitVec.getMsbD_extractLsb', bitsRead, hi, hpos]

theorem getMsbD_secondHalf (bits : Reg256) {i : Nat} (hi : i < 128) :
    (bits.extractLsb' 0 128).getMsbD i = bitsRead bits (i + 128) := by
  have hpos : 256 - (128 - i) = i + 128 := by omega
  have hin : 128 - i ≤ 256 := by omega
  simp [BitVec.getMsbD_extractLsb', bitsRead, hi, hpos, hin]

/-- The fold of a packed file is the exclusive or of its halves. -/
theorem foldBits_bitsRead (bits : Reg256) :
    foldBits (bitsRead bits) = bits.extractLsb' 128 128 ^^^ bits.extractLsb' 0 128 := by
  refine BitVec.eq_of_getMsbD_eq fun i hi => ?_
  rw [getMsbD_foldBits _ hi, BitVec.getMsbD_xor, getMsbD_firstHalf _ hi, getMsbD_secondHalf _ hi]

theorem foldBits_append (a b : Out128) : foldBits (bitsRead (a ++ b : BitVec 256)) = a ^^^ b := by
  have hfirst : (a ++ b).extractLsb' 128 128 = a := BitVec.extractLsb'_append_eq_left
  have hsecond : (a ++ b).extractLsb' 0 128 = b := BitVec.extractLsb'_append_eq_right
  rw [foldBits_bitsRead, hfirst, hsecond]

/-- Byte `k` of the fold is the exclusive or of bytes `k` and `k + 16` of the packed file. -/
theorem byteAt_foldBits (bits : Reg256) {k : Nat} (hk : k < 16) :
    byteAt (foldBits (bitsRead bits)) k = byteAt bits k ^^^ byteAt bits (k + 16) := by
  refine BitVec.eq_of_getMsbD_eq fun j hj => ?_
  have hlane : 8 * k + j + 128 = 8 * (k + 16) + j := by omega
  rw [BitVec.getMsbD_xor, getMsbD_byteAt _ (by omega) hj, getMsbD_byteAt _ (by omega) hj,
    getMsbD_byteAt _ (by omega) hj, getMsbD_foldBits _ (by omega), hlane, bitsRead, bitsRead]

theorem foldBits_xor (x y : Reg256) :
    foldBits (bitsRead (x ^^^ y)) = foldBits (bitsRead x) ^^^ foldBits (bitsRead y) := by
  rw [foldBits_bitsRead, foldBits_bitsRead, foldBits_bitsRead, BitVec.extractLsb'_xor,
    BitVec.extractLsb'_xor]
  ac_rfl

/-- The one second half that gives a wanted output with a given first half. -/
theorem foldBits_append_eq_iff (out a b : Out128) :
    foldBits (bitsRead (a ++ b : BitVec 256)) = out ↔ b = a ^^^ out := by
  rw [foldBits_append]
  constructor <;> rintro rfl <;> rw [← BitVec.xor_assoc, BitVec.xor_self, BitVec.zero_xor]

end Sys2Proof.Machine

/-- Settles O42: bit `7 - i % 8` of a byte is bit `i % 8` from its top, which is lane `i`. -/
theorem foldPacksMostSignificantFirst : Obligations.FoldPacksMostSignificantFirst := by
  intro bit i hi
  have hj : i % 8 < 8 := Nat.mod_lt i (by decide)
  have hlane := getMsbD_foldBits bit hi
  have hbyte : (byteAt (foldBits bit) (i / 8)).getMsbD (i % 8) = (foldBits bit).getMsbD i := by
    rw [getMsbD_byteAt _ (by omega) hj, Nat.div_add_mod]
  exact ⟨(getMsbD_eq_getLsbD_of_lt _ hj).symm.trans (hbyte.trans hlane),
    (getMsbD_eq_getLsbD_of_lt _ hi).symm.trans hlane⟩

/-- Settles O43: the halves, the bytes and the lanes of the fold are its bits read MSB first. -/
theorem foldIsExclusiveOrOfHalves : Obligations.FoldIsExclusiveOrOfHalves := fun bits =>
  ⟨foldBits_bitsRead bits, fun _ hk => byteAt_foldBits bits hk, fun _ hi => getMsbD_foldBits _ hi⟩

/-- Settles O44: the fold is the exclusive or of its halves, and has the laws of `^^^`. -/
theorem foldObeysItsLaws : Obligations.FoldObeysItsLaws := by
  refine ⟨foldBits_xor, fun a b => ?_, fun a => ?_, fun a => ?_, fun out a => ?_, by decide⟩
  · rw [foldBits_append, foldBits_append, BitVec.xor_comm]
  · exact (foldBits_append a a).trans BitVec.xor_self
  · rw [foldBits_append_eq_iff, BitVec.xor_allOnes]
  · exact ⟨a ^^^ out, (foldBits_append_eq_iff out a _).2 rfl,
      fun b hb => (foldBits_append_eq_iff out a b).1 hb⟩
end

section
/-! What a command word does in an idle phase, at both levels: INIT, and the idle micro-steps
(45_stream_generator_fsm.md R162, R175 to R177). -/

open Sys2Proof Sys2Proof.Machine Sys2Proof.Safety

namespace Sys2Proof.Machine

/-! ### The answer to an accepted word -/

/-- An accepted word that is refused: only the two ports change (R190). -/
theorem accepted_raise_eq (s : State) (e : Status) :
    s.accepted.raise e = { s with cmd := none, resp := some ⟨e, 0⟩ } := rfl

theorem initStatus_accepted (s : State) (cfg : BitVec 6) (len : BitVec 8) (seed : Reg256) :
    initStatus s.accepted cfg len seed = initStatus s cfg len seed := rfl

theorem accepted_construct_of_ne_ok {s : State} {cfg : BitVec 6} {len : BitVec 8} {seed : Reg256}
    (h : initStatus s cfg len seed ≠ .ok) :
    s.accepted.construct cfg len seed =
      { s with cmd := none, resp := some ⟨initStatus s cfg len seed, 0⟩ } := by
  rw [construct_eq, initStatus_accepted, if_neg h, accepted_raise_eq]

/-- The four writes of a successful INIT, with its response (R162). -/
theorem accepted_construct_of_ok {s : State} {cfg : BitVec 6} {len : BitVec 8} {seed : Reg256}
    (h : initStatus s cfg len seed = .ok) :
    s.accepted.construct cfg len seed =
      { s with
        seed := seed, stateReg := sha256 (bytesOf seed), counter := 0, phase := .ready
        cmd := none, resp := some ⟨.ok, 0⟩ } := by
  rw [construct_eq, initStatus_accepted, if_pos h]
  rfl

/-! ### The status of an INIT, cause by cause -/

theorem initStatus_of_registry_le {s : State} {cfg : BitVec 6} (len : BitVec 8) (seed : Reg256)
    (h : s.registry.length ≤ cfg.toNat) : initStatus s cfg len seed = .eIllegalCmd := by
  simp [initStatus, h]

theorem initStatus_of_seedLen_ne {s : State} {cfg : BitVec 6} {len : BitVec 8} (seed : Reg256)
    {e : Config.RegistryEntry} (he : s.registry[cfg.toNat]? = some e) (hlen : len ≠ e.seedLen) :
    initStatus s cfg len seed = .eSeedLength := by
  simp [initStatus, he, hlen]

theorem initStatus_of_checksum_ne {s : State} {cfg : BitVec 6} {len : BitVec 8} {seed : Reg256}
    {e : Config.RegistryEntry} (he : s.registry[cfg.toNat]? = some e) (hlen : len = e.seedLen)
    (hsum : sha256 (bytesOf seed) ≠ e.checksum) : initStatus s cfg len seed = .eChecksum := by
  simp [initStatus, he, hlen, hsum]

/-! ### INIT in each idle phase -/

theorem exec_init_of_ready_port {s : State} (cfg : BitVec 6) (len : BitVec 8) (seed : Reg256)
    (h : cmdReady s = true) :
    exec (.init cfg len seed) s = .next (s.accepted.initCommand cfg len seed) := if_pos h

theorem initCommand_of_fault {s : State} (cfg : BitVec 6) (len : BitVec 8) (seed : Reg256)
    (h : s.phase = .fault) : s.initCommand cfg len seed = s.raise .eFaulted := if_pos h

theorem initCommand_of_ready {s : State} (cfg : BitVec 6) (len : BitVec 8) (seed : Reg256)
    (h : s.phase = .ready) : s.initCommand cfg len seed = s.raise .eAlreadyInit := by
  simp [State.initCommand, h]

theorem initCommand_of_uninit {s : State} (cfg : BitVec 6) (len : BitVec 8) (seed : Reg256)
    (h : s.phase = .uninit) : s.initCommand cfg len seed = s.construct cfg len seed := by
  simp [State.initCommand, h]

theorem exec_init_of_uninit {s : State} (cfg : BitVec 6) (len : BitVec 8) (seed : Reg256)
    (hport : cmdReady s = true) (hphase : s.phase = .uninit) :
    exec (.init cfg len seed) s = .next (s.accepted.construct cfg len seed) := by
  rw [exec_init_of_ready_port cfg len seed hport, initCommand_of_uninit cfg len seed (s := s.accepted) hphase]

/-- An INIT that fails in `UNINIT` reports the status found and writes nothing else. -/
theorem exec_init_of_ne_ok {s : State} {cfg : BitVec 6} {len : BitVec 8} {seed : Reg256} {e : Status}
    (hport : cmdReady s = true) (hphase : s.phase = .uninit) (hstatus : initStatus s cfg len seed = e)
    (hfail : e ≠ .ok) :
    exec (.init cfg len seed) s = .next { s with cmd := none, resp := some ⟨e, 0⟩ } := by
  subst hstatus
  rw [exec_init_of_uninit cfg len seed hport hphase, accepted_construct_of_ne_ok hfail]

theorem exec_init_of_ok {s : State} {cfg : BitVec 6} {len : BitVec 8} {seed : Reg256}
    (hport : cmdReady s = true) (hphase : s.phase = .uninit) (hstatus : initStatus s cfg len seed = .ok) :
    exec (.init cfg len seed) s = .next
      { s with
        seed := seed, stateReg := sha256 (bytesOf seed), counter := 0, phase := .ready
        cmd := none, resp := some ⟨.ok, 0⟩ } := by
  rw [exec_init_of_uninit cfg len seed hport hphase, accepted_construct_of_ok hstatus]

/-- The digest of the reference seed (R125), which is registry entry 0's checksum. -/
theorem sha256_referenceSeed :
    sha256 (bytesOf (0x0000000000000000a8f4979b77e3f93fa8f4979b77e3f93fa8f4979b77e3f93f : Reg256)) =
      0x096412ca0482ab0f519bc0e4ded667475c45495047653a21aa11e2c7c578fa6f := by
  decide +kernel

/-! ### The idle micro-steps on an accepted word -/

theorem reservedOp_iff (w : CmdWord) : reservedOp w = true ↔ opField w = 0b00 ∨ opField w = 0b11 := by
  simp [reservedOp]

theorem exec_idleUninit_of_offered {s : State} {w : CmdWord} (h : offered s = some w) :
    exec .idleUninit s = .next (s.accepted.uninitDispatch w) := by
  simp [exec, execIdleUninit, h]

theorem exec_idleReady_of_offered {s : State} {w : CmdWord} (h : offered s = some w) :
    exec .idleReady s = .next (s.accepted.readyDispatch w) := by
  simp [exec, execIdleReady, h]

theorem exec_idleFault_of_offered {s : State} {w : CmdWord} (h : offered s = some w) :
    exec .idleFault s = .next (s.accepted.faultDispatch w) := by
  simp [exec, execIdleFault, h]

theorem uninitDispatch_of_reserved (s : State) {w : CmdWord} (h : opField w = 0b00 ∨ opField w = 0b11) :
    s.uninitDispatch w = s.raise .eIllegalCmd := if_pos ((reservedOp_iff w).2 h)

theorem uninitDispatch_of_next (s : State) {w : CmdWord} (h : opField w = 0b10) :
    s.uninitDispatch w = s.raise .eNotReady := by
  simp [State.uninitDispatch, reservedOp, h]

theorem uninitDispatch_of_init (s : State) {w : CmdWord} (h : opField w = 0b01) :
    s.uninitDispatch w = s.construct (cfgField w) (lenField w) (seedField w) := by
  simp [State.uninitDispatch, reservedOp, h]

theorem readyDispatch_of_reserved (s : State) {w : CmdWord} (h : opField w = 0b00 ∨ opField w = 0b11) :
    s.readyDispatch w = s.raise .eIllegalCmd := if_pos ((reservedOp_iff w).2 h)

theorem readyDispatch_of_init (s : State) {w : CmdWord} (h : opField w = 0b01) :
    s.readyDispatch w = s.raise .eAlreadyInit := by
  simp [State.readyDispatch, reservedOp, h]

theorem readyDispatch_of_next (s : State) {w : CmdWord} (h : opField w = 0b10) :
    s.readyDispatch w = { s with n := 0, phase := .ratchet } := by
  simp [State.readyDispatch, reservedOp, h]

/-- In `FAULT` every word is refused; its `op` decides the status alone (R177). -/
theorem faultDispatch_eq (s : State) (w : CmdWord) :
    s.faultDispatch w = s.raise (if opField w = 0b00 ∨ opField w = 0b11 then .eIllegalCmd else .eFaulted) := by
  rw [apply_ite s.raise]
  simp only [State.faultDispatch, reservedOp_iff]

end Sys2Proof.Machine

/-- Settles O19: the phase is tested before the operands; in `UNINIT` the one status of R195 decides. -/
theorem initFollowsItsRule : Obligations.InitFollowsItsRule := by
  intro s cfg len seed hport
  refine ⟨fun hfault => ?_, fun hready => ?_, fun huninit hcfg => ?_, fun e huninit he hlen => ?_,
    fun e huninit he hlen hsum => ?_, fun e huninit he hlen hsum => ?_, fun huninit he => ?_⟩
  · rw [exec_init_of_ready_port cfg len seed hport,
      initCommand_of_fault (s := s.accepted) cfg len seed hfault, accepted_raise_eq]
  · rw [exec_init_of_ready_port cfg len seed hport,
      initCommand_of_ready (s := s.accepted) cfg len seed hready, accepted_raise_eq]
  · exact exec_init_of_ne_ok hport huninit (initStatus_of_registry_le len seed hcfg) (by decide)
  · exact exec_init_of_ne_ok hport huninit (initStatus_of_seedLen_ne seed he hlen) (by decide)
  · exact exec_init_of_ne_ok hport huninit (initStatus_of_checksum_ne he hlen hsum) (by decide)
  · exact exec_init_of_ok hport huninit ((initStatus_eq_ok_iff s cfg len seed).2 ⟨e, he, hlen, hsum⟩)
  · have hok := (initStatus_eq_ok_iff s 0 32 _).2 ⟨Config.entry0, he, rfl, sha256_referenceSeed⟩
    rw [exec_init_of_ok hport huninit hok, sha256_referenceSeed]

/-- Settles O30: `op` selects the answer, and an INIT is the whole construction of R162. -/
theorem uninitStepFollowsItsRule : Obligations.UninitStepFollowsItsRule := by
  intro s w hcmd hresp
  rw [exec_idleUninit_of_offered ((offered_eq_some_iff s w).2 ⟨hresp, hcmd⟩)]
  refine ⟨fun hop => ?_, fun hop => ?_, fun hop hfail => ?_, fun hop hok => ?_⟩
  · rw [uninitDispatch_of_reserved _ hop, accepted_raise_eq]
  · rw [uninitDispatch_of_next _ hop, accepted_raise_eq]
  · rw [uninitDispatch_of_init _ hop, accepted_construct_of_ne_ok hfail]
  · rw [uninitDispatch_of_init _ hop, accepted_construct_of_ok hok]

/-- Settles O31: `op` selects the answer, and a NEXT has none yet. -/
theorem readyStepFollowsItsRule : Obligations.ReadyStepFollowsItsRule := by
  intro s w hcmd hresp
  rw [exec_idleReady_of_offered ((offered_eq_some_iff s w).2 ⟨hresp, hcmd⟩)]
  refine ⟨fun hop => ?_, fun hop => ?_, fun hop => ?_⟩
  · rw [readyDispatch_of_reserved _ hop, accepted_raise_eq]
  · rw [readyDispatch_of_init _ hop, accepted_raise_eq]
  · rw [readyDispatch_of_next _ hop]
    rfl

/-- Settles O32: every word is refused, so `PHASE` stays. -/
theorem faultStepFollowsItsRule : Obligations.FaultStepFollowsItsRule := by
  intro s w hphase hcmd hresp
  have hexec := exec_idleFault_of_offered ((offered_eq_some_iff s w).2 ⟨hresp, hcmd⟩)
  rw [faultDispatch_eq, accepted_raise_eq] at hexec
  exact ⟨_, hexec, hphase, rfl⟩
end

section
/-! The micro-steps RATCHET and SIFT (45_stream_generator_fsm.md R178, R179). -/

open Sys2Proof Sys2Proof.Machine

namespace Sys2Proof.Machine

/-! ### RATCHET -/

theorem exhausted_iff (s : State) : exhausted s = true ↔ s.ctrMax ≤ s.counter := decide_eq_true_iff

theorem exec_ratchet_of_ctrMax_le {s : State} (h : s.ctrMax ≤ s.counter) :
    exec .ratchet s = .next s.counterFault := if_pos ((exhausted_iff s).2 h)

theorem exec_ratchet_of_counter_lt {s : State} (h : s.counter < s.ctrMax) :
    exec .ratchet s = .next { s.ratcheted with phase := .sift } :=
  if_neg (mt (exhausted_iff s).1 (Nat.not_le_of_lt h))

/-! ### SIFT -/

theorem exec_sift_of_n_lt {s : State} (h : s.n < 256) : exec .sift s = .next s.sifted.afterSift := if_pos h

@[simp] theorem State.sifted_n (s : State) : s.sifted.n = if accept s then s.n + 1 else s.n := by
  rw [sifted_eq]

theorem State.sifted_bits (s : State) :
    s.sifted.bits = if accept s then bitsWrite s.bits s.n (selectedBit (stateByte s)) else s.bits := by
  rw [sifted_eq]

@[simp] theorem State.afterSift_bits (s : State) : s.afterSift.bits = s.bits := by
  rw [afterSift_eq]

/-- SIFT writes entry `N` of an accepted byte, and no other entry (R141). -/
theorem bitsRead_sifted {s : State} {j : Nat} (hn : s.n < 256) (hj : j < 256) :
    bitsRead s.sifted.bits j =
      if accept s = true ∧ j = s.n then (stateByte s).getLsbD 0 else bitsRead s.bits j := by
  rw [State.sifted_bits]
  cases haccept : accept s with
  | false => simp
  | true => simp [bitsRead_bitsWrite _ _ _ _ hj hn, selectedBit, bitAt]

/-- The state after SIFT, in terms of the `N` and `BITS` it leaves: the test for 256 bits comes first. -/
theorem sifted_afterSift_eq (s : State) :
    s.sifted.afterSift = { s with
      n := s.sifted.n
      bits := s.sifted.bits
      phase := (if s.sifted.n = 256 then .fold else if s.idx = 31 then .ratchet else s.phase)
      idx := (if s.sifted.n = 256 ∨ s.idx = 31 then s.idx else s.idx + 1) } := by
  rw [afterSift_eq, sifted_eq]

end Sys2Proof.Machine

/-- Settles O26: the ratchet step is taken exactly while the counter is below its bound. -/
theorem ratchetStepFollowsItsRule : Obligations.RatchetStepFollowsItsRule :=
  fun _ => ⟨fun hbound => exec_ratchet_of_ctrMax_le hbound.ge, exec_ratchet_of_counter_lt⟩

/-- Settles O27: the new `N` is the one SIFT leaves, and the FSM's tests read it. -/
theorem siftStepFollowsItsRule : Obligations.SiftStepFollowsItsRule := by
  intro s hn
  refine ⟨s.sifted.afterSift, s.sifted.n, exec_sift_of_n_lt hn, s.sifted_n, fun j hj => ?_, ?_⟩
  · rw [State.afterSift_bits, bitsRead_sifted hn hj]
  · rw [State.afterSift_bits, ← sifted_afterSift_eq]
end

section
/-! The one status of an accepted command, and `FAULT` (60_exceptions.md R194 to R196). -/

open Sys2Proof Sys2Proof.Machine Sys2Proof.Safety

namespace Sys2Proof.Machine

/-! ### The reserved words and NEXT on a ready port -/

theorem exec_reservedOp00_of_ready_port {s : State} (cfg : BitVec 6) (len : BitVec 8) (seed : Reg256)
    (h : cmdReady s = true) :
    exec (.reservedOp00 cfg len seed) s = .next (s.accepted.raise .eIllegalCmd) := if_pos h

theorem exec_reservedOp11_of_ready_port {s : State} (cfg : BitVec 6) (len : BitVec 8) (seed : Reg256)
    (h : cmdReady s = true) :
    exec (.reservedOp11 cfg len seed) s = .next (s.accepted.raise .eIllegalCmd) := if_pos h

theorem exec_next_of_ready_port {s : State} (cfg : BitVec 6) (len : BitVec 8) (seed : Reg256)
    (h : cmdReady s = true) : exec (.next cfg len seed) s = .next s.accepted.nextCommand := if_pos h

theorem nextCommand_of_fault {s : State} (h : s.phase = .fault) : s.nextCommand = s.raise .eFaulted := if_pos h

/-! ### What a state reports -/

/-- The response waiting carries the status `e`, and an output other than 0 only with `OK` (R75, R195). -/
def State.Reports (t : State) (e : Status) : Prop :=
  ∃ out, t.resp = some ⟨e, out⟩ ∧ (e ≠ .ok → out = 0)

theorem raise_reports (s : State) (e : Status) : (s.raise e).Reports e := ⟨0, rfl, fun _ => rfl⟩

theorem respond_ok_reports (s : State) (out : Out128) : (s.respond .ok out).Reports .ok :=
  ⟨out, rfl, fun hne => absurd rfl hne⟩

theorem counterFault_reports (s : State) : s.counterFault.Reports .eCounterExhausted := raise_reports _ _

/-- Accepting the word changes nothing a status depends on. -/
theorem commandStatus_accepted (s : State) (i : Instr) : commandStatus s.accepted i = commandStatus s i := by
  cases i <;> rfl

/-- The construction reports items 4 to 6 and 8 of the list of R195. -/
theorem construct_reports (s : State) (cfg : BitVec 6) (len : BitVec 8) (seed : Reg256) :
    (s.construct cfg len seed).Reports (initStatus s cfg len seed) := by
  rw [construct_eq]
  split
  next hok =>
    rw [hok]
    exact respond_ok_reports _ _
  next => exact raise_reports _ _

theorem initCommand_reports (s : State) (cfg : BitVec 6) (len : BitVec 8) (seed : Reg256) :
    (s.initCommand cfg len seed).Reports (commandStatus s (.init cfg len seed)) := by
  unfold State.initCommand commandStatus
  split
  · exact raise_reports _ _
  · split
    · exact raise_reports _ _
    · exact construct_reports s cfg len seed

/-- A collection is filled exactly when the blocks left before the counter is exhausted hold 256 accepted
bits (R166, R171). -/
theorem collect_filled_or_exhausted (s : State) :
    (256 ≤ (bitsBeforeExhaustion s).length ∧
      ∃ bits st c, collect s.ctrMax s.stateReg s.counter = .filled bits st c) ∨
    ((bitsBeforeExhaustion s).length < 256 ∧
      ∃ st c, collect s.ctrMax s.stateReg s.counter = .exhausted st c) := by
  rcases collectLoop_eq (s.ctrMax - s.counter) s.stateReg s.counter [] (Nat.zero_le 256) with
    ⟨m, hm, -, henough, hfilled⟩ | ⟨hshort, hexhausted⟩
  · have hmono := acceptedBits_length_mono s.stateReg s.counter m (s.ctrMax - s.counter - m)
    rw [Nat.add_sub_cancel' hm] at hmono
    rw [List.length_nil, Nat.zero_add] at henough
    exact .inl ⟨henough.trans hmono, _, _, _, hfilled⟩
  · rw [List.length_nil, Nat.zero_add] at hshort
    exact .inr ⟨hshort, _, _, hexhausted⟩

/-- Items 7 and 8 of the list of R195: the counter fault, or an output. -/
theorem finishNext_collect_reports (s : State) :
    (s.finishNext (collect s.ctrMax s.stateReg s.counter)).Reports
      (if (bitsBeforeExhaustion s).length < 256 then .eCounterExhausted else .ok) := by
  rcases collect_filled_or_exhausted s with ⟨henough, _, _, _, hfilled⟩ | ⟨hshort, _, _, hexhausted⟩
  · rw [hfilled, if_neg (Nat.not_lt.2 henough)]
    exact respond_ok_reports _ _
  · rw [hexhausted, if_pos hshort]
    exact counterFault_reports _

theorem nextCommand_reports (s : State) (cfg : BitVec 6) (len : BitVec 8) (seed : Reg256) :
    s.nextCommand.Reports (commandStatus s (.next cfg len seed)) := by
  unfold State.nextCommand commandStatus
  split
  · exact raise_reports _ _
  · split
    · exact raise_reports _ _
    · exact finishNext_collect_reports s

/-- An accepted command answers with its status (R195). -/
theorem exec_command_reports {s : State} {i : Instr} (hcommand : isCommand i = true) (hport : cmdReady s = true) :
    ∃ t, exec i s = .next t ∧ t.Reports (commandStatus s i) := by
  rw [← commandStatus_accepted]
  cases i with
  | init cfg len seed => exact ⟨_, exec_init_of_ready_port cfg len seed hport, initCommand_reports _ _ _ _⟩
  | next cfg len seed => exact ⟨_, exec_next_of_ready_port cfg len seed hport, nextCommand_reports _ _ _ _⟩
  | reservedOp00 cfg len seed => exact ⟨_, exec_reservedOp00_of_ready_port cfg len seed hport, raise_reports _ _⟩
  | reservedOp11 cfg len seed => exact ⟨_, exec_reservedOp11_of_ready_port cfg len seed hport, raise_reports _ _⟩
  | _ => cases hcommand

/-! ### The steps of a faulted block -/

theorem step_of_resetIn {s : State} (h : s.resetIn = true) : step s = .next s.afterReset := if_pos h

/-- Without reset a faulted block waits, lets its response be taken, or refuses a word (R177, R196). -/
theorem step_of_fault {s t : State} (hphase : s.phase = .fault) (hreset : s.resetIn = false)
    (hstep : step s = .next t) :
    t = s ∨ t = { s with resp := none } ∨ ∃ e, t = s.accepted.raise e := by
  rcases step_run hstep with ⟨hin, -⟩ | ⟨-, -, hwait | htake⟩ |
    ⟨-, -, hself | ⟨-, e, hraise, -⟩ | ⟨hother, -⟩ | ⟨hother, -⟩ | ⟨hother, -⟩ | ⟨hother, -⟩ | ⟨hother, -⟩ |
      ⟨hother, -⟩ | ⟨hother, -⟩⟩
  · cases hreset.symm.trans hin
  · exact .inl hwait
  · exact .inr (.inl htake)
  · exact .inl hself
  · exact .inr (.inr ⟨e, hraise⟩)
  -- every other step belongs to another phase
  all_goals cases hphase.symm.trans hother

end Sys2Proof.Machine

/-- Settles O16: each command's tests are those of its status, in their order, and NEXT's last one is how its
collection ends. -/
theorem commandReportsFirstStatus : Obligations.CommandReportsFirstStatus := by
  intro s i hcommand hport
  obtain ⟨t, hexec, out, hresp, hout⟩ := exec_command_reports hcommand hport
  exact ⟨t, out, hexec, hresp, hout⟩

/-- Settles O46: by the inversion of a faulted block's step. -/
theorem faultIsStickyUntilReset : Obligations.FaultIsStickyUntilReset := by
  refine ⟨fun s i hphase hresp hcommand => ?_, fun s t hphase hreset hstep => ?_, fun s _ hreset => ?_⟩
  · have hport : cmdReady s = true := (cmdReady_iff s).2 ⟨by rw [hphase]; rfl, hresp⟩
    obtain ⟨cfg, len, seed, rfl | rfl⟩ := hcommand
    · exact (initFollowsItsRule s cfg len seed hport).1 hphase
    · rw [exec_next_of_ready_port cfg len seed hport, nextCommand_of_fault (s := s.accepted) hphase,
        accepted_raise_eq]
  · obtain rfl | rfl | ⟨e, rfl⟩ := step_of_fault hphase hreset hstep <;> exact ⟨hphase, rfl, rfl, rfl⟩
  · exact ⟨s.afterReset, step_of_resetIn hreset, s.afterReset_phase⟩

/-- Settles O24: a reserved word is refused before anything else is tested, an out-of-range `cfg` after the
phase. -/
theorem illegalCommandsAreAnswered : Obligations.IllegalCommandsAreAnswered := by
  intro s cfg len seed hport
  refine ⟨exec_reservedOp00_of_ready_port cfg len seed hport,
    exec_reservedOp11_of_ready_port cfg len seed hport, fun hcfg => ?_⟩
  obtain ⟨hfault, hready, huninit, -⟩ := initFollowsItsRule s cfg len seed hport
  obtain ⟨hidle, -⟩ := (cmdReady_iff s).1 hport
  rcases phaseIdle_cases hidle with hphase | hphase | hphase
  · rw [huninit hphase hcfg, if_pos hphase]
  · rw [hready hphase, hphase, if_neg (by decide), if_pos rfl]
  · rw [hfault hphase, hphase, if_neg (by decide), if_neg (by decide)]
end

section
/-! Decoder and encoder (30_encoding.md R71 to R75, R78, R85, R86): the fields of an assembled word, and
registers and their bytes. -/

open Sys2Proof Sys2Proof.Machine

namespace Sys2Proof

/-! ### The fields of a command word (R71) -/

theorem cfgField_commandWord (op : BitVec 2) (cfg : BitVec 6) (len : BitVec 8) (seed : Reg256) :
    cfgField (commandWord op cfg len seed) = cfg := by
  unfold cfgField commandWord
  ext j hj
  simp [BitVec.getElem_extractLsb', show 264 + j < 272 by omega, show 264 + j < 270 by omega,
    show ¬ 264 + j < 256 by omega, BitVec.getLsbD_of_ge len (264 + j - 256) (by omega),
    BitVec.getLsbD_of_ge seed (264 + j) (by omega), BitVec.getLsbD_eq_getElem hj]

theorem lenField_commandWord (op : BitVec 2) (cfg : BitVec 6) (len : BitVec 8) (seed : Reg256) :
    lenField (commandWord op cfg len seed) = len := by
  unfold lenField commandWord
  ext j hj
  simp [BitVec.getElem_extractLsb', show 256 + j < 272 by omega, show 256 + j < 270 by omega,
    show 256 + j < 264 by omega, BitVec.getLsbD_eq_getElem hj]

theorem seedField_commandWord (op : BitVec 2) (cfg : BitVec 6) (len : BitVec 8) (seed : Reg256) :
    seedField (commandWord op cfg len seed) = seed := by
  unfold seedField commandWord
  ext j hj
  simp [BitVec.getElem_extractLsb', show j < 272 by omega, show j < 270 by omega, show j < 264 by omega,
    hj]

/-- The four fields are the whole word. -/
theorem commandWord_fields (w : CmdWord) :
    commandWord (opField w) (cfgField w) (lenField w) (seedField w) = w := by
  refine BitVec.eq_of_getLsbD_eq fun j hj => ?_
  simp only [commandWord, opField, cfgField, lenField, seedField, BitVec.getLsbD_or, BitVec.getLsbD_shiftLeft,
    BitVec.getLsbD_setWidth, BitVec.getLsbD_extractLsb']
  rcases (by omega : j < 256 ∨ (256 ≤ j ∧ j < 264) ∨ (264 ≤ j ∧ j < 270) ∨ 270 ≤ j) with
    hseed | ⟨hlo, hlen⟩ | ⟨hlo, hcfg⟩ | hop
  · simp [hj, hseed, show j < 264 by omega, show j < 270 by omega]
  · simp [hj, hlen, show ¬ j < 256 by omega, show j < 270 by omega, show j - 256 < 8 by omega,
      show j - 256 < 272 by omega, show 256 + (j - 256) = j by omega]
  · simp [hj, hcfg, show ¬ j < 256 by omega, show ¬ j < 264 by omega, show ¬ j - 256 < 8 by omega,
      show j - 264 < 6 by omega, show j - 264 < 272 by omega, show 264 + (j - 264) = j by omega]
  · simp [hj, show ¬ j < 256 by omega, show ¬ j < 264 by omega, show ¬ j < 270 by omega,
      show ¬ j - 256 < 8 by omega, show ¬ j - 264 < 6 by omega, show j - 270 < 2 by omega,
      show j - 270 < 272 by omega, show 270 + (j - 270) = j by omega]

/-! ### Decoding what the encoder writes, and back -/

/-- The command each `op` stands for, over its three operands (R73, R74). -/
def commandOf (op : BitVec 2) (cfg : BitVec 6) (len : BitVec 8) (seed : Reg256) : Instr :=
  if op = 0b00#2 then .reservedOp00 cfg len seed
  else if op = 0b01#2 then .init cfg len seed
  else if op = 0b10#2 then .next cfg len seed
  else .reservedOp11 cfg len seed

theorem decodeCommand_eq_commandOf (w : CmdWord) :
    decodeCommand w = commandOf (opField w) (cfgField w) (lenField w) (seedField w) := rfl

theorem decodeCommand_commandWord (op : BitVec 2) (cfg : BitVec 6) (len : BitVec 8) (seed : Reg256) :
    decodeCommand (commandWord op cfg len seed) = commandOf op cfg len seed := by
  rw [decodeCommand_eq_commandOf, Laws.EncodingFormat.opField_commandWord, cfgField_commandWord,
    lenField_commandWord, seedField_commandWord]

theorem encode_decodeCommand (w : CmdWord) : encode (decodeCommand w) = some (.command w) := by
  rcases opField_cases w with hop | hop | hop | hop <;>
    simpa [decodeCommand, encode, hop] using commandWord_fields w

/-- The codes of `PHASE` that decode are encoded back (R78). -/
theorem encode_of_decodePhase {code : BitVec 3} {i : Instr} (h : decodePhase code = .ok i) :
    encode i = some (.phase code) := by
  unfold decodePhase at h
  split_ifs at h with hcode hcode hcode hcode hcode hcode <;> cases h <;> rw [hcode] <;> rfl

end Sys2Proof

/-- Settles O1: the word's fields are read back, and its `op` names the command. -/
theorem decodeReadsWhatEncodeWrites : Obligations.DecodeReadsWhatEncodeWrites := by
  intro i e hencode
  cases i with
  | init cfg len seed => cases hencode; exact congrArg _ (decodeCommand_commandWord 0b01 cfg len seed)
  | next cfg len seed => cases hencode; exact congrArg _ (decodeCommand_commandWord 0b10 cfg len seed)
  | reservedOp00 cfg len seed => cases hencode; exact congrArg _ (decodeCommand_commandWord 0b00 cfg len seed)
  | reservedOp11 cfg len seed => cases hencode; exact congrArg _ (decodeCommand_commandWord 0b11 cfg len seed)
  -- a phase code decodes by evaluation; what has no encoding is excluded
  | _ => cases hencode <;> rfl

/-- Settles O2: a word is its four fields, and each `PHASE` code that decodes is encoded back. -/
theorem encodeWritesWhatDecodeReads : Obligations.EncodeWritesWhatDecodeReads := by
  intro e i hdecode
  cases e with
  | command w => cases hdecode; exact encode_decodeCommand w
  | phase code => exact encode_of_decodePhase hdecode

/-- Settles O4: by evaluation of the decoder on each word and code. -/
theorem writtenWordsDecode : Obligations.WrittenWordsDecode := by
  unfold Obligations.WrittenWordsDecode
  decide +kernel

namespace Sys2Proof.Machine

/-! ### A register and its bytes (R14) -/

theorem length_bytesOf {w : Nat} (v : BitVec w) : (bytesOf v).length = w / 8 := by simp [bytesOf]

theorem getElem?_bytesOf {w k : Nat} (v : BitVec w) (hk : k < w / 8) :
    (bytesOf v)[k]? = some (byteAt v k) := by
  simp [bytesOf, hk]

theorem getD_bytesOf {w k : Nat} (v : BitVec w) (hk : k < w / 8) : (bytesOf v).getD k 0 = byteAt v k := by
  rw [List.getD_eq_getElem?_getD, getElem?_bytesOf v hk, Option.getD_some]

/-- The bytes of a register of whole bytes give it back. -/
theorem ofBytes_bytesOf {w : Nat} (hw : 8 * (w / 8) = w) (v : BitVec w) : ofBytes w (bytesOf v) = v := by
  refine BitVec.eq_of_getMsbD_eq fun i hi => ?_
  rw [getMsbD_ofBytes (by rw [length_bytesOf, hw]) hi, getD_bytesOf v (by omega),
    getMsbD_byteAt v (by omega) (by omega), Nat.div_add_mod]

/-- Byte `k` of a bus that holds a byte string is its byte `k`. -/
theorem byteAt_ofBytes {w k : Nat} {bs : List Byte} (hw : w = 8 * bs.length) (hk : k < bs.length) :
    byteAt (ofBytes w bs) k = bs.getD k 0 := by
  refine BitVec.eq_of_getMsbD_eq fun j hj => ?_
  have hdiv : (8 * k + j) / 8 = k := by omega
  have hmod : (8 * k + j) % 8 = j := by omega
  rw [getMsbD_byteAt _ (by omega) hj, getMsbD_ofBytes hw (by omega), hdiv, hmod]

end Sys2Proof.Machine

/-- Settles O5: the 34 bytes of a word give the word back, and byte `k` is cut out of it at `264 - 8 k`. -/
theorem commandBytesCarryTheWord : Obligations.CommandBytesCarryTheWord := by
  refine fun w => ⟨?_, fun k hk => getElem?_bytesOf w hk⟩
  rw [decodeBytes, if_pos (length_bytesOf w), ofBytes_bytesOf rfl]

namespace Sys2Proof

/-! ### The seed operand (R72) -/

/-- The bytes sent are those of the seed, and zeros past its end. -/
theorem byteAt_seedOperand (seed : List Byte) {k : Nat} (hk : k < 32) :
    byteAt (seedOperand seed) k = seed.getD k 0 := by
  have hlen : ((seed ++ List.replicate 32 (0 : Byte)).take 32).length = 32 := by simp
  rw [seedOperand, byteAt_ofBytes (by rw [hlen]) (by rw [hlen]; exact hk)]
  simp only [List.getD_eq_getElem?_getD, List.getElem?_take_of_lt hk]
  rcases Nat.lt_or_ge k seed.length with hin | hout
  · rw [List.getElem?_append_left hin]
  · rw [List.getElem?_append_right hout, List.getElem?_eq_none hout,
      List.getElem?_replicate_of_lt (by omega)]
    rfl

end Sys2Proof

/-- Settles O6: the assembled word is read back field by field, and its seed field byte by byte. -/
theorem initLineAssemblesItsSeed : Obligations.InitLineAssemblesItsSeed := fun cfg seed =>
  ⟨_, seedOperand seed, rfl, decodeCommand_commandWord 0b01 cfg (seedLenOperand seed) (seedOperand seed),
    fun _ hk => byteAt_seedOperand seed hk⟩

namespace Sys2Proof.Machine

/-! ### The response word (R75, R76) -/

theorem responseWord_status (r : Response) : (responseWord r).extractLsb' 128 4 = statusCode r.status := by
  unfold responseWord
  ext j hj
  simp [show 128 + j < 132 by omega, BitVec.getLsbD_eq_getElem hj]

theorem responseWord_out (r : Response) : (responseWord r).extractLsb' 0 128 = r.out := by
  unfold responseWord
  ext j hj
  simp [hj, show j < 132 by omega]

theorem statusCode_injective {e e' : Status} (h : statusCode e = statusCode e') : e = e' := by
  revert h
  cases e <;> cases e' <;> decide

theorem responseWord_injective {r r' : Response} (h : responseWord r = responseWord r') : r = r' := by
  have hstatus : statusCode r.status = statusCode r'.status := by
    rw [← responseWord_status, ← responseWord_status, h]
  have hout : r.out = r'.out := by rw [← responseWord_out, ← responseWord_out, h]
  cases r
  cases r'
  exact congrArg₂ Response.mk (statusCode_injective hstatus) hout

end Sys2Proof.Machine

/-- Settles O8: both fields can be read off the word, so the word determines the response. -/
theorem responseWordHoldsStatusAndOutput : Obligations.ResponseWordHoldsStatusAndOutput :=
  ⟨fun r => ⟨responseWord_status r, responseWord_out r⟩, fun _ _ => responseWord_injective,
    rfl, rfl, rfl, rfl, rfl, rfl, rfl, rfl⟩
end

section
/-! COLLECT in closed form, alone and inside NEXT (43_bit_selector.md R142, R143, R146,
45_stream_generator_fsm.md R165, R166, R171). -/

open Sys2Proof Sys2Proof.Machine Sys2Proof.Safety

namespace Sys2Proof.Machine

/-! ### The bits of a block -/

/-- A block of 32 bytes yields at most 32 bits (R146). -/
theorem length_blockBits_le (block : Reg256) : (blockBits block).length ≤ 32 := by
  rw [blockBits, List.length_map]
  exact (List.length_filter_le _ _).trans_eq (length_bytesOf block)

theorem length_acceptedBits_le (st : Reg256) (c m : Nat) : (acceptedBits st c m).length ≤ 32 * m := by
  induction m generalizing st c with
  | zero => exact Nat.le_refl 0
  | succ m ih =>
    have hblock := length_blockBits_le (ratchetHash st c)
    have hrest := ih (ratchetHash st c) (c + 1)
    rw [acceptedBits_succ, List.length_append]
    omega

theorem acceptedBits_length_le {m m' : Nat} (st : Reg256) (c : Nat) (h : m ≤ m') :
    (acceptedBits st c m).length ≤ (acceptedBits st c m').length := by
  simpa [Nat.add_sub_cancel' h] using acceptedBits_length_mono st c m (m' - m)

/-! ### How a collection ends -/

/-- Block `m + 1` after the state supplies the 256th accepted bit, before the counter is exhausted. -/
structure FillsAt (s : State) (m : Nat) : Prop where
  within : m < s.ctrMax - s.counter
  short : (acceptedBits s.stateReg s.counter m).length < 256
  enough : 256 ≤ (acceptedBits s.stateReg s.counter (m + 1)).length

/-- At most one block does: the count of accepted bits never falls. -/
theorem FillsAt.unique {s : State} {m m' : Nat} (h : FillsAt s m) (h' : FillsAt s m') : m = m' := by
  have le_of_fillsAt {a b : Nat} (ha : FillsAt s a) (hb : FillsAt s b) : a ≤ b := by
    by_contra hlt
    have hmono := acceptedBits_length_le s.stateReg s.counter (show b + 1 ≤ a by omega)
    exact absurd (hb.enough.trans hmono) (Nat.not_le.2 ha.short)
  exact Nat.le_antisymm (le_of_fillsAt h h') (le_of_fillsAt h' h)

/-- Such a block is one of those left before the counter is exhausted. -/
theorem FillsAt.not_short {s : State} {m : Nat} (h : FillsAt s m) : 256 ≤ (bitsBeforeExhaustion s).length :=
  h.enough.trans (acceptedBits_length_le _ _ h.within)

/-- 256 bits need 8 blocks of at most 32 (R146). -/
theorem FillsAt.eight_le {s : State} {m : Nat} (h : FillsAt s m) : 8 ≤ m + 1 := by
  have hall := length_acceptedBits_le s.stateReg s.counter (m + 1)
  have henough := h.enough
  omega

/-- What COLLECT returns when block `m + 1` is the last it needs (R142, R143). -/
def filledAfter (s : State) (m : Nat) : Collected :=
  .filled ((acceptedBits s.stateReg s.counter (m + 1)).take 256) (stateAfter s.stateReg s.counter (m + 1))
    (s.counter + (m + 1))

/-- What COLLECT returns when it has used every block left (R166). -/
def exhaustedAfter (s : State) : Collected :=
  .exhausted (stateAfter s.stateReg s.counter (s.ctrMax - s.counter)) (s.counter + (s.ctrMax - s.counter))

/-- Each way a collection can end, with what the accepted bits say of it. -/
theorem collect_ends (s : State) :
    (∃ m, FillsAt s m ∧ collect s.ctrMax s.stateReg s.counter = filledAfter s m) ∨
    ((bitsBeforeExhaustion s).length < 256 ∧ collect s.ctrMax s.stateReg s.counter = exhaustedAfter s) := by
  rcases collectLoop_eq (s.ctrMax - s.counter) s.stateReg s.counter [] (Nat.zero_le 256) with
    ⟨m, hwithin, hshort, henough, hcollect⟩ | ⟨hshort, hcollect⟩
  · simp only [List.length_nil, Nat.zero_add] at hshort henough
    cases m with
    | zero => exact absurd henough (by simp [acceptedBits_zero])
    | succ m => exact .inl ⟨m, ⟨hwithin, hshort m (Nat.lt_succ_self m), henough⟩, hcollect⟩
  · rw [List.length_nil, Nat.zero_add] at hshort
    exact .inr ⟨hshort, hcollect⟩

theorem collect_of_fillsAt {s : State} {m : Nat} (h : FillsAt s m) :
    collect s.ctrMax s.stateReg s.counter = filledAfter s m := by
  rcases collect_ends s with ⟨m', hfills, hcollect⟩ | ⟨hshort, -⟩
  · rw [hcollect, hfills.unique h]
  · exact absurd h.not_short (Nat.not_le.2 hshort)

theorem collect_of_short {s : State} (h : (bitsBeforeExhaustion s).length < 256) :
    collect s.ctrMax s.stateReg s.counter = exhaustedAfter s := by
  rcases collect_ends s with ⟨m, hfills, -⟩ | ⟨-, hcollect⟩
  · exact absurd hfills.not_short (Nat.not_le.2 h)
  · exact hcollect

/-- The fold reads no entry past the 256th. -/
theorem foldBits_take (bits : List Bool) :
    foldBits (fun j => (bits.take 256).getD j false) = foldBits fun j => bits.getD j false :=
  foldBits_congr fun j hj => by simp only [List.getD_eq_getElem?_getD, List.getElem?_take_of_lt hj]

/-! ### NEXT in `READY` -/

theorem nextCommand_of_ready {s : State} (h : s.phase = .ready) :
    s.nextCommand = s.finishNext (collect s.ctrMax s.stateReg s.counter) := by
  simp [State.nextCommand, h]

theorem exec_next_of_ready {s : State} (cfg : BitVec 6) (len : BitVec 8) (seed : Reg256)
    (hphase : s.phase = .ready) (hresp : s.resp = none) :
    exec (.next cfg len seed) s =
      .next (s.accepted.finishNext (collect s.ctrMax s.stateReg s.counter)) := by
  have hport : cmdReady s = true := (cmdReady_iff s).2 ⟨by rw [hphase]; rfl, hresp⟩
  rw [exec_next_of_ready_port cfg len seed hport, nextCommand_of_ready (s := s.accepted) hphase]
  rfl

theorem exec_collect (s : State) :
    exec .collect s = .next (s.finishCollect (collect s.ctrMax s.stateReg s.counter)) := rfl

end Sys2Proof.Machine

/-- Settles O41: a scan that stops keeps the first 256 bits, and a block yields at most 32. -/
theorem blockScanCutsAt256 : Obligations.BlockScanCutsAt256 := by
  intro block held hheld
  have hscan : scanBlock (bytesOf block) held = (held ++ blockBits block).take 256 := scanBlock_eq _ _ hheld
  refine ⟨hscan, ?_⟩
  rw [hscan]
  calc ((held ++ blockBits block).take 256).length
      ≤ (held ++ blockBits block).length := List.length_take_le' _ _
    _ = held.length + (blockBits block).length := List.length_append
    _ ≤ held.length + 32 := Nat.add_le_add_left (length_blockBits_le block) _

/-- Settles O20: the collection ends with the block that supplies the 256th bit, and the fold reads no further. -/
theorem nextFoldsFirst256AcceptedBits : Obligations.NextFoldsFirst256AcceptedBits := by
  intro s cfg len seed m hphase hresp hwithin hshort henough
  rw [exec_next_of_ready cfg len seed hphase hresp, collect_of_fillsAt ⟨hwithin, hshort, henough⟩,
    ← foldBits_take]
  rfl

/-- Settles O21: the collection uses every block left, which brings the counter to its bound. -/
theorem nextFaultsWhenCounterRunsOut : Obligations.NextFaultsWhenCounterRunsOut := by
  intro s cfg len seed hphase hresp hbound hshort
  rw [exec_next_of_ready cfg len seed hphase hresp, collect_of_short hshort, exhaustedAfter,
    Nat.add_sub_cancel' hbound]
  rfl

/-- Settles O22: by how the collection ends. -/
theorem nextEndsWithinTheCounterBound : Obligations.NextEndsWithinTheCounterBound := by
  intro s cfg len seed hphase hresp hbound
  rw [exec_next_of_ready cfg len seed hphase hresp]
  rcases collect_ends s with ⟨m, hfills, hcollect⟩ | ⟨-, hcollect⟩ <;> rw [hcollect]
  · have hwithin : s.counter + (m + 1) ≤ s.ctrMax := by have := hfills.within; omega
    exact ⟨_, _, rfl, rfl, Nat.le_add_right _ _, hwithin, .inl ⟨rfl, hphase⟩⟩
  · have hcounter : s.counter + (s.ctrMax - s.counter) = s.ctrMax := Nat.add_sub_cancel' hbound
    exact ⟨_, _, rfl, rfl, Nat.le_add_right _ _, hcounter.le, .inr ⟨rfl, rfl, hcounter, rfl⟩⟩

/-- Settles O23: an answer `OK` is a filled collection, whose 256 bits took at least 8 blocks. -/
theorem outputCostsAtLeastEightRatchets : Obligations.OutputCostsAtLeastEightRatchets := by
  intro s t cfg len seed out hphase hresp hexec hok
  rw [exec_next_of_ready cfg len seed hphase hresp] at hexec
  rcases collect_ends s with ⟨m, hfills, hcollect⟩ | ⟨-, hcollect⟩ <;> rw [hcollect] at hexec <;> cases hexec
  · exact Nat.add_le_add_left hfills.eight_le s.counter
  · cases hok

/-- Settles O35: COLLECT hands back what NEXT would fold. -/
theorem collectTakesFirst256AcceptedBits : Obligations.CollectTakesFirst256AcceptedBits := by
  intro s m hwithin hshort henough
  rw [exec_collect, collect_of_fillsAt ⟨hwithin, hshort, henough⟩]
  rfl

/-- Settles O36: COLLECT takes the counter fault itself. -/
theorem collectFaultsWhenCounterRunsOut : Obligations.CollectFaultsWhenCounterRunsOut := by
  intro s hbound hshort
  rw [exec_collect, collect_of_short hshort, exhaustedAfter, Nat.add_sub_cancel' hbound]
  rfl
end

section
/-! What accepted commands do, and commands that wait (20_memory.md R57, R60, 45_stream_generator_fsm.md R161,
60_exceptions.md R190). -/

open Sys2Proof Sys2Proof.Machine Sys2Proof.Safety

namespace Sys2Proof.Machine

/-! ### The status of each command (R195) -/

theorem commandStatus_init (s : State) (cfg : BitVec 6) (len : BitVec 8) (seed : Reg256) :
    commandStatus s (.init cfg len seed) =
      if s.phase = .fault then .eFaulted else if s.phase = .ready then .eAlreadyInit
      else initStatus s cfg len seed := rfl

theorem commandStatus_next (s : State) (cfg : BitVec 6) (len : BitVec 8) (seed : Reg256) :
    commandStatus s (.next cfg len seed) =
      if s.phase = .fault then .eFaulted else if s.phase = .uninit then .eNotReady
      else if (bitsBeforeExhaustion s).length < 256 then .eCounterExhausted else .ok := rfl

/-- The three ways an accepted command `i` takes `s` to `t`. -/
inductive Answers (s : State) (i : Instr) : State → Prop
  /-- The command is refused: its status is raised (R190). -/
  | refused (hok : commandStatus s i ≠ .ok) (hexhausted : commandStatus s i ≠ .eCounterExhausted) :
      Answers s i (s.raise (commandStatus s i))
  /-- An INIT has passed the gate (R162). -/
  | constructed (seed d : Reg256) (hok : commandStatus s i = .ok) : Answers s i (s.constructed seed d)
  /-- A NEXT in `READY` has collected (R165). -/
  | collected (hphase : s.phase = .ready)
      (hstatus : commandStatus s i =
        if (bitsBeforeExhaustion s).length < 256 then .eCounterExhausted else .ok) :
      Answers s i (s.finishNext (collect s.ctrMax s.stateReg s.counter))

theorem initStatus_ne_eCounterExhausted (s : State) (cfg : BitVec 6) (len : BitVec 8) (seed : Reg256) :
    initStatus s cfg len seed ≠ .eCounterExhausted := by
  unfold initStatus
  split
  · decide
  · split_ifs <;> decide

/-- Raising the status that applies is a refusal, unless that status is one of a command that acts. -/
theorem Answers.of_status {s : State} {i : Instr} {e : Status} (hstatus : commandStatus s i = e)
    (hok : e ≠ .ok) (hexhausted : e ≠ .eCounterExhausted) : Answers s i (s.raise e) := by
  subst hstatus
  exact .refused hok hexhausted

theorem initCommand_answers {s : State} (cfg : BitVec 6) (len : BitVec 8) (seed : Reg256)
    (hidle : phaseIdle s.phase = true) :
    Answers s (.init cfg len seed) (s.initCommand cfg len seed) := by
  rcases phaseIdle_cases hidle with hphase | hphase | hphase
  · have hstatus : commandStatus s (.init cfg len seed) = initStatus s cfg len seed := by
      simp [commandStatus_init, hphase]
    rw [initCommand_of_uninit cfg len seed hphase, construct_eq]
    split
    next hok => exact .constructed _ _ (hstatus.trans hok)
    next hfail => exact .of_status hstatus hfail (initStatus_ne_eCounterExhausted s cfg len seed)
  · rw [initCommand_of_ready cfg len seed hphase]
    exact .of_status (by simp [commandStatus_init, hphase]) (by decide) (by decide)
  · rw [initCommand_of_fault cfg len seed hphase]
    exact .of_status (by simp [commandStatus_init, hphase]) (by decide) (by decide)

theorem nextCommand_of_uninit {s : State} (h : s.phase = .uninit) : s.nextCommand = s.raise .eNotReady := by
  simp [State.nextCommand, h]

theorem nextCommand_answers {s : State} (cfg : BitVec 6) (len : BitVec 8) (seed : Reg256)
    (hidle : phaseIdle s.phase = true) : Answers s (.next cfg len seed) s.nextCommand := by
  rcases phaseIdle_cases hidle with hphase | hphase | hphase
  · rw [nextCommand_of_uninit hphase]
    exact .of_status (by simp [commandStatus_next, hphase]) (by decide) (by decide)
  · rw [nextCommand_of_ready hphase]
    exact .collected hphase (by simp [commandStatus_next, hphase])
  · rw [nextCommand_of_fault hphase]
    exact .of_status (by simp [commandStatus_next, hphase]) (by decide) (by decide)

/-- What an accepted command does. -/
theorem exec_command_answers {s : State} {i : Instr} (hcommand : isCommand i = true)
    (hport : cmdReady s = true) : ∃ t, exec i s = .next t ∧ Answers s.accepted i t := by
  obtain ⟨hidle, -⟩ := (cmdReady_iff s).1 hport
  cases i with
  | init cfg len seed =>
    exact ⟨_, exec_init_of_ready_port cfg len seed hport, initCommand_answers cfg len seed hidle⟩
  | next cfg len seed =>
    exact ⟨_, exec_next_of_ready_port cfg len seed hport, nextCommand_answers cfg len seed hidle⟩
  | reservedOp00 cfg len seed =>
    exact ⟨_, exec_reservedOp00_of_ready_port cfg len seed hport, .of_status rfl (by decide) (by decide)⟩
  | reservedOp11 cfg len seed =>
    exact ⟨_, exec_reservedOp11_of_ready_port cfg len seed hport, .of_status rfl (by decide) (by decide)⟩
  | _ => cases hcommand

/-! ### The command of a word -/

/-- A command word is reserved, an INIT or a NEXT (R73, R74). -/
theorem opField_kinds (w : CmdWord) :
    (opField w = 0b00 ∨ opField w = 0b11) ∨ opField w = 0b01 ∨ opField w = 0b10 := by
  rcases opField_cases w with hop | hop | hop | hop <;> simp [hop]

theorem isCommand_decodeCommand (w : CmdWord) : isCommand (decodeCommand w) = true := by
  rcases opField_cases w with hop | hop | hop | hop <;> simp [decodeCommand, hop, isCommand]

section
variable {s : State} {w : CmdWord}

theorem exec_decodeCommand_of_reserved (hport : cmdReady s = true) (hop : opField w = 0b00 ∨ opField w = 0b11) :
    exec (decodeCommand w) s = .next (s.accepted.raise .eIllegalCmd) := by
  rcases hop with hop | hop <;> simp only [decodeCommand, hop]
  · exact exec_reservedOp00_of_ready_port _ _ _ hport
  · exact exec_reservedOp11_of_ready_port _ _ _ hport

theorem exec_decodeCommand_of_init (hport : cmdReady s = true) (hop : opField w = 0b01) :
    exec (decodeCommand w) s = .next (s.accepted.initCommand (cfgField w) (lenField w) (seedField w)) := by
  simp only [decodeCommand, hop]
  exact exec_init_of_ready_port _ _ _ hport

theorem exec_decodeCommand_of_next (hport : cmdReady s = true) (hop : opField w = 0b10) :
    exec (decodeCommand w) s = .next s.accepted.nextCommand := by
  simp only [decodeCommand, hop]
  exact exec_next_of_ready_port _ _ _ hport

end

/-! ### The phase after a command (R161) -/

/-- NEXT in `READY` stays there with an output, and goes to `FAULT` with the counter fault. -/
theorem finishNext_collect_phase {s : State} (hphase : s.phase = .ready) :
    (s.finishNext (collect s.ctrMax s.stateReg s.counter)).phase =
      if (bitsBeforeExhaustion s).length < 256 then .fault else .ready := by
  rcases collect_ends s with ⟨m, hfills, hcollect⟩ | ⟨hshort, hcollect⟩
  · rw [hcollect, if_neg (Nat.not_lt.2 hfills.not_short)]
    exact hphase
  · rw [hcollect, if_pos hshort]
    rfl

theorem Answers.phase {s t : State} {i : Instr} (h : Answers s i t) :
    t.phase = if commandStatus s i = .ok then .ready
      else if commandStatus s i = .eCounterExhausted then .fault else s.phase := by
  cases h with
  | refused hok hexhausted => rw [if_neg hok, if_neg hexhausted, State.raise_phase]
  | constructed seed d hok => rw [if_pos hok, State.constructed_phase]
  | collected hphase hstatus =>
    rw [finishNext_collect_phase hphase, hstatus]
    by_cases hshort : (bitsBeforeExhaustion s).length < 256 <;> simp [hshort]

/-- The status alone tells a refusal from what acts. -/
theorem Answers.eq_raise {s t : State} {i : Instr} (h : Answers s i t) (hok : commandStatus s i ≠ .ok)
    (hexhausted : commandStatus s i ≠ .eCounterExhausted) : t = s.raise (commandStatus s i) := by
  cases h with
  | refused => rfl
  | constructed seed d hok' => exact absurd hok' hok
  | collected hphase hstatus =>
    split at hstatus
    · exact absurd hstatus hexhausted
    · exact absurd hstatus hok

/-! ### Reset, and a port that is not ready -/

theorem exec_reset (s : State) : exec .reset s = .next s.afterReset := rfl

theorem exec_command_of_port_not_ready {s : State} {i : Instr} (hcommand : isCommand i = true)
    (hport : cmdReady s = false) : exec i s = .next s := by
  have hclosed : ¬ cmdReady s = true := by rw [hport]; decide
  cases i with
  | init | next | reservedOp00 | reservedOp11 => exact if_neg hclosed
  | _ => cases hcommand

end Sys2Proof.Machine

/-- Settles O17: a refusal raises its status, and raising writes the response port alone. -/
theorem refusedCommandsChangeNothing : Obligations.RefusedCommandsChangeNothing := by
  intro s i hcommand hport hok hexhausted
  obtain ⟨t, hexec, hanswers⟩ := exec_command_answers hcommand hport
  rw [← commandStatus_accepted] at hok hexhausted
  rw [hexec, hanswers.eq_raise hok hexhausted, commandStatus_accepted, accepted_raise_eq]

/-- Settles O18: by what the command does; its response is the one of R195. -/
theorem phaseFollowsTransitionTable : Obligations.PhaseFollowsTransitionTable := by
  refine ⟨fun s i hcommand hport => ?_, fun s => ⟨_, exec_reset s, s.afterReset_phase, s.afterReset_resp⟩⟩
  obtain ⟨t, hexec, hanswers⟩ := exec_command_answers hcommand hport
  obtain ⟨t', hexec', out, hresp, -⟩ := exec_command_reports hcommand hport
  cases hexec.symm.trans hexec'
  refine ⟨t, out, hexec, hresp, ?_⟩
  rw [← commandStatus_accepted]
  exact hanswers.phase

/-- Settles O25: each command tests its port first. -/
theorem commandsWaitForTheirPort : Obligations.CommandsWaitForTheirPort :=
  fun _ _ => exec_command_of_port_not_ready
end

section
/-! The step around an instruction, and what each instruction answers (30_encoding.md R77, R78,
45_stream_generator_fsm.md R174, R179, R180, 60_exceptions.md R203, R206). -/

open Sys2Proof Sys2Proof.Machine Sys2Proof.Safety

namespace Sys2Proof.Machine

/-! ### What the step fetches and runs -/

theorem step_of_resp {s : State} {r : Response} (hreset : s.resetIn = false) (hresp : s.resp = some r) :
    step s = .next s.waitForTake := by
  simp [step, hreset, hresp]

theorem step_of_fetch {s : State} {i : Instr} (hreset : s.resetIn = false) (hresp : s.resp = none)
    (hfetch : fetch s = some i) : step s = exec i s := by
  simp [step, hreset, hresp, hfetch]

theorem step_of_fetch_none {s : State} (hreset : s.resetIn = false) (hresp : s.resp = none)
    (hfetch : fetch s = none) : step s = .next s := by
  simp [step, hreset, hresp, hfetch]

/-- At the transaction level an idle block fetches from the command port. -/
theorem fetch_of_transaction {s : State} (hlevel : s.level = .transaction) (hidle : phaseIdle s.phase = true) :
    fetch s = s.cmd.map decodeCommand := by
  simp only [fetch, hlevel, hidle, if_true]
  cases hcmd : s.cmd <;> simp [fetchCommand, hcmd, decode, Except.toOption]

/-- Else `PHASE` selects the step (R78). -/
theorem fetch_of_micro {s : State} {i : Instr} (hlevel : s.level = .micro ∨ phaseIdle s.phase = false)
    (hdecode : decodePhase (phaseCode s.phase) = .ok i) : fetch s = some i := by
  have hmicro : fetchMicro s = some i := by simp [fetchMicro, decode, hdecode, Except.toOption]
  unfold fetch
  split
  · exact hmicro
  next htransaction =>
    rcases hlevel with hlevel | hbusy
    · cases hlevel.symm.trans htransaction
    · rw [hbusy]
      exact hmicro

/-- An idle block with no command presented waits (R206). -/
theorem step_of_idle_without_cmd {s : State} (hreset : s.resetIn = false) (hresp : s.resp = none)
    (hcmd : s.cmd = none) (hidle : phaseIdle s.phase = true) : step s = .next s := by
  have hoffered : offered s = none := (offered_eq_none_iff s).2 (.inr hcmd)
  cases hlevel : s.level with
  | transaction =>
    exact step_of_fetch_none hreset hresp (by rw [fetch_of_transaction hlevel hidle, hcmd]; rfl)
  | micro =>
    rw [step_of_fetch hreset hresp (fetch_of_micro (.inl hlevel) (decodePhase_phaseCode s.phase))]
    rcases phaseIdle_cases hidle with hphase | hphase | hphase <;>
      simp [hphase, exec, execIdleUninit, execIdleReady, execIdleFault, hoffered]

/-! ### What each instruction answers -/

theorem exec_idle_of_not_offered {s : State} (h : offered s = none) :
    exec .idleUninit s = .next s ∧ exec .idleReady s = .next s ∧ exec .idleFault s = .next s := by
  simp [exec, execIdleUninit, execIdleReady, execIdleFault, h]

theorem exec_sift_of_n_ge {s : State} (h : 256 ≤ s.n) : exec .sift s = .fault .siftBitsFull :=
  if_neg (Nat.not_lt.2 h)

theorem exec_fold (s : State) :
    exec .fold s = .next ({ s with phase := .ready }.respond .ok (foldBits (bitsRead s.bits))) := rfl

/-- SIFT with `N` at 256 or more is the one instruction that stops (R200; log entry 9). -/
theorem exec_answers {s : State} {i : Instr} (hsift : i = .sift → s.n < 256) : ∃ t, exec i s = .next t := by
  cases i with
  | init | next | reservedOp00 | reservedOp11 =>
    by_cases hport : cmdReady s = true
    · exact ⟨_, if_pos hport⟩
    · exact ⟨_, if_neg hport⟩
  | ratchet =>
    rcases Nat.lt_or_ge s.counter s.ctrMax with hlt | hge
    · exact ⟨_, exec_ratchet_of_counter_lt hlt⟩
    · exact ⟨_, exec_ratchet_of_ctrMax_le hge⟩
  | sift => exact ⟨_, exec_sift_of_n_lt (hsift rfl)⟩
  | idleUninit | idleReady | idleFault =>
    cases hoffered : offered s with
    | none => exact ⟨s, by simp [exec_idle_of_not_offered hoffered]⟩
    | some w =>
      simp [exec_idleUninit_of_offered hoffered, exec_idleReady_of_offered hoffered,
        exec_idleFault_of_offered hoffered]
  | fold | validate | collect | sha256 | reset => exact ⟨_, rfl⟩

/-- No command word is fetched as SIFT. -/
theorem phase_of_fetch_sift {s : State} (h : fetch s = some .sift) : s.phase = .sift := by
  rcases fetch_cases s _ h with ⟨-, -, w, -, hsift⟩ | ⟨-, hdecode⟩
  · have hcommand := isCommand_decodeCommand w
    rw [← hsift] at hcommand
    cases hcommand
  · rw [decodePhase_phaseCode] at hdecode
    cases hphase : s.phase with
    | sift => rfl
    | _ => simp [hphase] at hdecode

end Sys2Proof.Machine

/-- Settles O13: the one instruction that can stop is fetched in `SIFT`, where the invariant bounds `N`. -/
theorem invariantStatesAlwaysStep : Obligations.InvariantStatesAlwaysStep := by
  intro s hinv
  rcases step_cases s with ⟨-, hstep⟩ | ⟨-, -, hstep⟩ | ⟨-, -, i, hfetch, hstep⟩ | ⟨-, -, -, hstep⟩
  · exact ⟨_, hstep⟩
  · exact ⟨_, hstep⟩
  · rw [hstep]
    refine exec_answers fun hsift => Nat.lt_succ_of_le (hinv.collecting (.inr ?_))
    exact phase_of_fetch_sift (hsift ▸ hfetch)
  · exact ⟨_, hstep⟩

/-- Settles O9: by what is fetched at each level. -/
theorem stepRunsTheDecodedInstruction : Obligations.StepRunsTheDecodedInstruction := by
  refine fun s i hreset hresp => ⟨fun hlevel hidle w hcmd hdecode => ?_, fun hlevel hdecode => ?_⟩
  · cases hdecode
    exact step_of_fetch hreset hresp (by rw [fetch_of_transaction hlevel hidle, hcmd]; rfl)
  · exact step_of_fetch hreset hresp (fetch_of_micro hlevel hdecode)

/-- Settles O10: reset, then the response port, then the wait of an idle block. -/
theorem stepHonoursResetAndHandshake : Obligations.StepHonoursResetAndHandshake := by
  refine fun s => ⟨step_of_resetIn, fun hreset r hresp hready => ?_, fun hreset r hresp hready => ?_,
    step_of_idle_without_cmd⟩ <;> rw [step_of_resp hreset hresp, State.waitForTake, hready] <;> rfl

/-- Settles O28: the test of `N` comes first. -/
theorem siftStopsWithFullBits : Obligations.SiftStopsWithFullBits := fun _ => exec_sift_of_n_ge

/-- Settles O29: FOLD tests nothing. -/
theorem foldStepFollowsItsRule : Obligations.FoldStepFollowsItsRule := exec_fold

/-- Settles O33: there is no word to accept. -/
theorem idleStepsWaitForAWord : Obligations.IdleStepsWaitForAWord := fun s hwait =>
  exec_idle_of_not_offered ((offered_eq_none_iff s).2 hwait.symm)
end

section
/-! The sub-operations and the hash's padding (40_hash_sha256.md R106, R110, 41_seed_store.md R120 to R122,
43_bit_selector.md R145). -/

open Sys2Proof Sys2Proof.Machine Sys2Proof.Safety

namespace Sys2Proof.Machine

/-! ### VALIDATE -/

theorem exec_validate (s : State) (cfg : BitVec 6) (len : BitVec 8) (seed : Reg256) :
    exec (.validate cfg len seed) s =
      .next { s with result := validateResult (validate s.registry cfg len seed) } := rfl

section
variable {registry : List Config.RegistryEntry} {cfg : BitVec 6} {len : BitVec 8} {seed : Reg256}
  {e : Config.RegistryEntry}

theorem validate_of_registry_le (h : registry.length ≤ cfg.toNat) :
    validate registry cfg len seed = .error .eIllegalCmd := by
  simp [validate, registryRead, h]

theorem validate_of_seedLen_ne (he : registry[cfg.toNat]? = some e) (hlen : len ≠ e.seedLen) :
    validate registry cfg len seed = .error .eSeedLength := by
  simp [validate, registryRead, he, hlen]

theorem validate_of_checksum_ne (he : registry[cfg.toNat]? = some e) (hlen : len = e.seedLen)
    (hsum : sha256 (bytesOf seed) ≠ e.checksum) : validate registry cfg len seed = .error .eChecksum := by
  simp [validate, registryRead, he, hlen, hsum]

theorem validate_of_verified (he : registry[cfg.toNat]? = some e) (hlen : len = e.seedLen)
    (hsum : sha256 (bytesOf seed) = e.checksum) : validate registry cfg len seed = .ok e.checksum := by
  simp [validate, registryRead, he, hlen, hsum]

end

/-! ### The hash -/

theorem exec_sha256 (s : State) (m : List Byte) :
    exec (.sha256 m) s = .next { s with result := .digest (sha256 m) } := rfl

/-- The digest of the empty message (R110). -/
theorem sha256_empty :
    sha256 [] = 0xe3b0c44298fc1c149afbf4c8996fb92427ae41e4649b934ca495991b7852b855 := by
  decide +kernel

/-- The digest of `abc` (R110). -/
theorem sha256_abc :
    sha256 [0x61, 0x62, 0x63] = 0xba7816bf8f01cfea414140de5dae2223b00361a396177a9cb410ff61f20015ad := by
  decide +kernel

theorem length_padMessage (m : List Byte) :
    (padMessage m).length = m.length + 1 + padZeros m.length + 8 := by
  simp only [padMessage, lengthBytes, List.length_append, List.length_replicate, length_bytesOf,
    List.length_singleton]

/-- The padding makes whole blocks of 64 bytes (R106). -/
theorem dvd_padZeros (L : Nat) : 64 ∣ L + 1 + padZeros L + 8 := by
  unfold padZeros
  omega

/-- No smaller number of zero bytes does (R106). -/
theorem not_dvd_of_lt_padZeros {L y : Nat} (h : y < padZeros L) : ¬ 64 ∣ L + 1 + y + 8 := by
  unfold padZeros at h
  omega

theorem padZeros_of_le {L : Nat} (h : L ≤ 55) : padZeros L = 55 - L := by
  unfold padZeros
  omega

end Sys2Proof.Machine

/-- Settles O34: the registry is read first, then the length is tested, then the checksum. -/
theorem validateTestsLengthThenChecksum : Obligations.ValidateTestsLengthThenChecksum := by
  intro s cfg len seed
  rw [exec_validate]
  refine ⟨fun hcfg => ?_, fun e he => ⟨fun hlen => ?_, fun hlen hsum => ?_, fun hlen hsum => ?_⟩⟩
  · rw [validate_of_registry_le hcfg, validateResult]
  · rw [validate_of_seedLen_ne he hlen, validateResult]
  · rw [validate_of_checksum_ne he hlen hsum, validateResult]
  · rw [validate_of_verified he hlen hsum, validateResult]

/-- Settles O37: SHA256 writes the result alone; its worked values by evaluation. -/
theorem sha256HandsBackItsDigest : Obligations.Sha256HandsBackItsDigest :=
  ⟨exec_sha256, sha256_empty, sha256_abc, sha256_referenceSeed⟩

/-- Settles O38: the count of zero bytes is the least that makes whole blocks. -/
theorem paddingIsMinimal : Obligations.PaddingIsMinimal := fun m =>
  ⟨padZeros m.length, rfl, dvd_padZeros m.length, fun _ => not_dvd_of_lt_padZeros, length_padMessage m,
    fun hshort => by rw [length_padMessage, padZeros_of_le hshort]; omega⟩

/-- Settles O40: by counting over the 256 byte values. -/
theorem halfOfAllBytesAreAccepted : Obligations.HalfOfAllBytesAreAccepted := by
  unfold Obligations.HalfOfAllBytesAreAccepted
  decide +kernel
end

section
/-! The invariant of the reachable states, and what every step keeps (10_state.md R34, R35, 41_seed_store.md R123,
45_stream_generator_fsm.md R161, R182, 70_reset_and_hazards.md R220, R226). -/

open Sys2Proof Sys2Proof.Machine Sys2Proof.Safety

namespace Sys2Proof.Machine

/-! ### The step in `SIFT`, field by field (R179) -/

section
variable (s : State)

@[simp] theorem State.siftStep_stateReg : s.sifted.afterSift.stateReg = s.stateReg := by rw [sifted_afterSift_eq]
@[simp] theorem State.siftStep_counter : s.sifted.afterSift.counter = s.counter := by rw [sifted_afterSift_eq]
@[simp] theorem State.siftStep_seed : s.sifted.afterSift.seed = s.seed := by rw [sifted_afterSift_eq]
@[simp] theorem State.siftStep_n : s.sifted.afterSift.n = s.sifted.n := by rw [sifted_afterSift_eq]
@[simp] theorem State.siftStep_registry : s.sifted.afterSift.registry = s.registry := by rw [sifted_afterSift_eq]
@[simp] theorem State.siftStep_ctrMax : s.sifted.afterSift.ctrMax = s.ctrMax := by rw [sifted_afterSift_eq]
@[simp] theorem State.siftStep_cmd : s.sifted.afterSift.cmd = s.cmd := by rw [sifted_afterSift_eq]
@[simp] theorem State.siftStep_resp : s.sifted.afterSift.resp = s.resp := by rw [sifted_afterSift_eq]
@[simp] theorem State.siftStep_respReady : s.sifted.afterSift.respReady = s.respReady := by
  rw [sifted_afterSift_eq]
@[simp] theorem State.siftStep_resetIn : s.sifted.afterSift.resetIn = s.resetIn := by rw [sifted_afterSift_eq]
@[simp] theorem State.siftStep_level : s.sifted.afterSift.level = s.level := by rw [sifted_afterSift_eq]
@[simp] theorem State.siftStep_result : s.sifted.afterSift.result = s.result := by rw [sifted_afterSift_eq]

end

section
variable {s : State}

/-- With the 256th bit the FSM goes to `FOLD`, whatever `IDX` is. -/
theorem siftStep_phase_of_full (hfull : s.sifted.n = 256) : s.sifted.afterSift.phase = .fold := by
  rw [sifted_afterSift_eq]
  exact if_pos hfull

/-- After the last byte of a block it goes back to `RATCHET`. -/
theorem siftStep_phase_of_last (hfull : s.sifted.n ≠ 256) (hlast : s.idx = 31) :
    s.sifted.afterSift.phase = .ratchet := by
  rw [sifted_afterSift_eq]
  exact (if_neg hfull).trans (if_pos hlast)

theorem siftStep_phase_of_more (hfull : s.sifted.n ≠ 256) (hmore : s.idx ≠ 31) :
    s.sifted.afterSift.phase = s.phase := by
  rw [sifted_afterSift_eq]
  exact (if_neg hfull).trans (if_neg hmore)

theorem siftStep_idx_of_more (hfull : s.sifted.n ≠ 256) (hmore : s.idx ≠ 31) :
    s.sifted.afterSift.idx = s.idx + 1 := by
  rw [sifted_afterSift_eq]
  exact if_neg (not_or.2 ⟨hfull, hmore⟩)

/-- The step in `SIFT` leads to `FOLD` exactly with the 256th bit, and to no idle phase. -/
theorem siftStep_phase_cases (hphase : s.phase = .sift) :
    (s.sifted.afterSift.phase = .fold ∧ s.sifted.n = 256) ∨
    ((s.sifted.afterSift.phase = .ratchet ∨ s.sifted.afterSift.phase = .sift) ∧ s.sifted.n ≠ 256) := by
  by_cases hfull : s.sifted.n = 256
  · exact .inl ⟨siftStep_phase_of_full hfull, hfull⟩
  · refine .inr ⟨?_, hfull⟩
    by_cases hlast : s.idx = 31
    · exact .inl (siftStep_phase_of_last hfull hlast)
    · exact .inr ((siftStep_phase_of_more hfull hlast).trans hphase)

/-- SIFT adds at most one bit. -/
theorem sifted_n_le : s.sifted.n ≤ s.n + 1 := by
  rw [State.sifted_n]
  split <;> omega

end

/-! ### Every move of the machine -/

/-- The moves a step can make from `s`, each with the guards it is made under: `step_run` with the two
ends of a collection told apart. -/
inductive Moves (s : State) : State → Prop
  | reset (hreset : s.resetIn = true) : Moves s s.afterReset
  | wait : Moves s s
  | taken : Moves s { s with resp := none }
  | refused (e : Status) (hidle : phaseIdle s.phase = true) (hfail : e ≠ .ok) : Moves s (s.accepted.raise e)
  | constructed (w : CmdWord) (cfg : BitVec 6) (len : BitVec 8) (seed : Reg256) (hphase : s.phase = .uninit)
      (hcmd : s.cmd = some w) (hdecode : decodeCommand w = .init cfg len seed)
      (hok : initStatus s cfg len seed = .ok) : Moves s (s.accepted.constructed seed (sha256 (bytesOf seed)))
  | filled (m : Nat) (hphase : s.phase = .ready) (hfills : FillsAt s m) :
      Moves s (s.accepted.finishNext (filledAfter s m))
  | exhausted (hphase : s.phase = .ready) : Moves s (s.accepted.finishNext (exhaustedAfter s))
  | nextAccepted (hphase : s.phase = .ready) (hresp : s.resp = none) :
      Moves s { s.accepted with n := 0, phase := .ratchet }
  | counterFault (hphase : s.phase = .ratchet) (hbound : s.ctrMax ≤ s.counter) : Moves s s.counterFault
  | ratcheted (hphase : s.phase = .ratchet) (hbound : s.counter < s.ctrMax) (hresp : s.resp = none) :
      Moves s { s.ratcheted with phase := .sift }
  | sifted (hphase : s.phase = .sift) (hn : s.n < 256) (hresp : s.resp = none) :
      Moves s s.sifted.afterSift
  | folded (hphase : s.phase = .fold) :
      Moves s ({ s with phase := .ready }.respond .ok (foldBits (bitsRead s.bits)))

theorem step_moves {s t : State} (h : step s = .next t) : Moves s t := by
  rcases step_run h with ⟨hreset, rfl⟩ | ⟨-, -, rfl | rfl⟩ | ⟨-, hresp, hmove⟩
  · exact .reset hreset
  · exact .wait
  · exact .taken
  rcases hmove with rfl | ⟨hidle, e, rfl, hfail⟩ | ⟨hphase, w, cfg, len, seed, hcmd, hdecode, hok, rfl⟩ |
    ⟨hphase, rfl⟩ | ⟨hphase, rfl⟩ | ⟨hphase, hexhausted, rfl⟩ | ⟨hphase, hexhausted, rfl⟩ |
    ⟨hphase, hn, rfl⟩ | ⟨hphase, rfl⟩
  · exact .wait
  · exact .refused e hidle hfail
  · exact .constructed w cfg len seed hphase hcmd hdecode hok
  · rcases collect_ends s with ⟨m, hfills, hcollect⟩ | ⟨-, hcollect⟩ <;> rw [hcollect]
    · exact .filled m hphase hfills
    · exact .exhausted hphase
  · exact .nextAccepted hphase hresp
  · exact .counterFault hphase ((exhausted_iff s).1 hexhausted)
  · refine .ratcheted hphase (Nat.lt_of_not_le fun hle => ?_) hresp
    exact absurd ((exhausted_iff s).2 hle) (by simp [hexhausted])
  · exact .sifted hphase hn hresp
  · exact .folded hphase

end Sys2Proof.Machine

namespace Sys2Proof.Safety

/-! ### The parts of the invariant -/

/-- The clauses that hold of the registers outside `UNINIT`: the chain's closed form and the gate (R35, R123). -/
structure OnChain (s : State) : Prop where
  stateReg : s.stateReg = chain s.seed s.counter
  bound : s.counter ≤ s.ctrMax
  gate : ∃ e ∈ s.registry, sha256 (bytesOf s.seed) = e.checksum

theorem Configured.of_eq {s t : State} (h : Configured s) (hregistry : t.registry = s.registry)
    (hctrMax : t.ctrMax = s.ctrMax) : Configured t where
  registry := by rw [hregistry]; exact h.registry
  ctrMax := by rw [hctrMax]; exact h.ctrMax

theorem Inv.onChain {s : State} (h : Inv s) (hphase : s.phase ≠ .uninit) : OnChain s :=
  ⟨(h.chain hphase).1, (h.chain hphase).2, h.gate hphase⟩

/-- Whole ratchet steps within the bound stay on the chain. -/
theorem OnChain.ratchets {s t : State} (h : OnChain s) (m : Nat)
    (hstate : t.stateReg = stateAfter s.stateReg s.counter m) (hcounter : t.counter = s.counter + m)
    (hbound : s.counter + m ≤ s.ctrMax) (hseed : t.seed = s.seed) (hregistry : t.registry = s.registry)
    (hctrMax : t.ctrMax = s.ctrMax) : OnChain t where
  stateReg := by rw [hstate, hcounter, hseed, h.stateReg, stateAfter_chain]
  bound := by rw [hcounter, hctrMax]; exact hbound
  gate := by rw [hseed, hregistry]; exact h.gate

/-- What the invariant asks of an idle block. -/
theorem Inv.of_idle {s : State} (hidle : phaseIdle s.phase = true) (configured : Configured s)
    (hchain : s.phase ≠ .uninit → OnChain s) (fault : s.phase = .fault → s.counter = s.ctrMax)
    (clean : ∀ r, s.resp = some r → r.status ≠ .ok → r.out = 0) (wire : s.result = .none) : Inv s where
  configured := configured
  chain hphase := ⟨(hchain hphase).stateReg, (hchain hphase).bound⟩
  gate hphase := (hchain hphase).gate
  fault := fault
  collecting hphase := by rcases hphase with hphase | hphase <;> simp [hphase, phaseIdle] at hidle
  folding hphase := by simp [hphase, phaseIdle] at hidle
  silent hbusy := by simp [busy, hidle] at hbusy
  clean := clean
  wire := wire

/-- What the invariant asks of a busy block. -/
theorem Inv.of_busy {s : State} (hbusy : phaseIdle s.phase = false) (configured : Configured s)
    (hchain : OnChain s) (collecting : s.phase = .ratchet ∨ s.phase = .sift → s.n ≤ 255)
    (folding : s.phase = .fold → s.n = 256) (hresp : s.resp = none) (wire : s.result = .none) : Inv s where
  configured := configured
  chain _ := ⟨hchain.stateReg, hchain.bound⟩
  gate _ := hchain.gate
  fault hphase := by simp [hphase, phaseIdle] at hbusy
  collecting := collecting
  folding := folding
  silent _ := hresp
  clean r hr := by simp [hresp] at hr
  wire := wire

/-- In `UNINIT` with no response waiting the invariant asks nothing of the registers (R36). -/
theorem Inv.of_uninit {s : State} (hphase : s.phase = .uninit) (configured : Configured s)
    (hresp : s.resp = none) (wire : s.result = .none) : Inv s :=
  .of_idle (by rw [hphase]; rfl) configured (absurd hphase) (by simp [hphase]) (by simp [hresp]) wire

/-! ### Each move keeps the invariant -/

theorem Inv.of_reset {s : State} (h : Configured s) : Inv s.afterReset :=
  .of_uninit rfl (h.of_eq rfl rfl) rfl rfl

/-- A refusal writes the ports alone, and its response carries no output. -/
theorem Inv.refused {s : State} (h : Inv s) {e : Status} (hidle : phaseIdle s.phase = true) :
    Inv (s.accepted.raise e) :=
  .of_idle hidle (h.configured.of_eq rfl rfl)
    (fun hphase => (h.onChain hphase).ratchets 0 rfl rfl (h.onChain hphase).bound rfl rfl rfl) h.fault
    (by simp) h.wire

theorem Inv.taken {s : State} (h : Inv s) : Inv { s with resp := none } :=
  { h with
    configured := h.configured.of_eq rfl rfl
    silent := fun _ => rfl
    clean := nofun }

/-- A verified seed starts the chain anew (R123, R162). -/
theorem Inv.constructed {s : State} (h : Inv s) {cfg : BitVec 6} {len : BitVec 8} {seed : Reg256}
    (hok : initStatus s cfg len seed = .ok) :
    Inv (s.accepted.constructed seed (sha256 (bytesOf seed))) := by
  obtain ⟨e, he, -, hsum⟩ := (initStatus_eq_ok_iff s cfg len seed).1 hok
  exact .of_idle rfl (h.configured.of_eq rfl rfl)
    (fun _ => ⟨rfl, Nat.zero_le _, e, List.mem_of_getElem? he, hsum⟩) (by simp) (by simp) h.wire

theorem Inv.filled {s : State} (h : Inv s) {m : Nat} (hphase : s.phase = .ready) (hfills : FillsAt s m) :
    Inv (s.accepted.finishNext (filledAfter s m)) := by
  have hchain := h.onChain (by simp [hphase])
  have hbound : s.counter + (m + 1) ≤ s.ctrMax := by have := hfills.within; omega
  refine .of_idle (congrArg phaseIdle hphase) (h.configured.of_eq rfl rfl)
    (fun _ => hchain.ratchets (m + 1) rfl rfl hbound rfl rfl rfl) (fun hfault => ?_) (fun r hr => ?_) h.wire
  · cases hphase.symm.trans hfault
  · cases hr
    exact fun hne => absurd rfl hne

theorem Inv.exhausted {s : State} (h : Inv s) (hphase : s.phase = .ready) :
    Inv (s.accepted.finishNext (exhaustedAfter s)) := by
  have hchain := h.onChain (by simp [hphase])
  have hcounter : s.counter + (s.ctrMax - s.counter) = s.ctrMax := Nat.add_sub_cancel' hchain.bound
  refine .of_idle rfl (h.configured.of_eq rfl rfl)
    (fun _ => hchain.ratchets (s.ctrMax - s.counter) rfl rfl hcounter.le rfl rfl rfl)
    (fun _ => hcounter) (fun r hr => ?_) h.wire
  cases hr
  exact fun _ => rfl

theorem Inv.nextAccepted {s : State} (h : Inv s) (hphase : s.phase = .ready) (hresp : s.resp = none) :
    Inv { s.accepted with n := 0, phase := .ratchet } := by
  have hchain := h.onChain (by simp [hphase])
  exact .of_busy rfl (h.configured.of_eq rfl rfl)
    (hchain.ratchets 0 rfl rfl hchain.bound rfl rfl rfl) (fun _ => Nat.zero_le _) (by simp) hresp h.wire

theorem Inv.counterFault {s : State} (h : Inv s) (hphase : s.phase = .ratchet) (hbound : s.ctrMax ≤ s.counter) :
    Inv s.counterFault := by
  have hchain := h.onChain (by simp [hphase])
  exact .of_idle rfl (h.configured.of_eq rfl rfl)
    (fun _ => hchain.ratchets 0 rfl rfl hchain.bound rfl rfl rfl)
    (fun _ => Nat.le_antisymm hchain.bound hbound) (by simp) h.wire

theorem Inv.ratcheted {s : State} (h : Inv s) (hphase : s.phase = .ratchet) (hbound : s.counter < s.ctrMax)
    (hresp : s.resp = none) : Inv { s.ratcheted with phase := .sift } := by
  have hchain := h.onChain (by simp [hphase])
  exact .of_busy rfl (h.configured.of_eq rfl rfl)
    (hchain.ratchets 1 rfl rfl hbound rfl rfl rfl) (fun _ => h.collecting (.inl hphase)) (by simp) hresp h.wire

theorem Inv.sifted {s : State} (h : Inv s) (hphase : s.phase = .sift) (hn : s.n < 256) (hresp : s.resp = none) :
    Inv s.sifted.afterSift := by
  have hchain := h.onChain (by simp [hphase])
  have hcases := siftStep_phase_cases hphase
  refine .of_busy ?_ (h.configured.of_eq s.siftStep_registry s.siftStep_ctrMax) ?_
    (fun hcollecting => ?_) (fun hfold => ?_) ?_ ?_
  · rcases hcases with ⟨hp, -⟩ | ⟨hp | hp, -⟩ <;> rw [hp] <;> rfl
  · exact hchain.ratchets 0 s.siftStep_stateReg s.siftStep_counter hchain.bound s.siftStep_seed
      s.siftStep_registry s.siftStep_ctrMax
  · rcases hcases with ⟨hp, -⟩ | ⟨-, hne⟩
    · simp [hp] at hcollecting
    · have hle := sifted_n_le (s := s)
      rw [State.siftStep_n]
      omega
  · rcases hcases with ⟨-, hfull⟩ | ⟨hp | hp, -⟩
    · exact (State.siftStep_n s).trans hfull
    · cases hp.symm.trans hfold
    · cases hp.symm.trans hfold
  · rw [State.siftStep_resp, hresp]
  · rw [State.siftStep_result, h.wire]

theorem Inv.folded {s : State} (h : Inv s) (hphase : s.phase = .fold) :
    Inv ({ s with phase := .ready }.respond .ok (foldBits (bitsRead s.bits))) := by
  have hchain := h.onChain (by simp [hphase])
  exact .of_idle rfl (h.configured.of_eq rfl rfl)
    (fun _ => hchain.ratchets 0 rfl rfl hchain.bound rfl rfl rfl) (by simp) (by simp) h.wire

theorem Inv.of_moves {s t : State} (hinv : Inv s) (h : Moves s t) : Inv t := by
  cases h with
  | reset => exact .of_reset hinv.configured
  | wait => exact hinv
  | taken => exact hinv.taken
  | refused e hidle => exact hinv.refused hidle
  | constructed w cfg len seed hphase hcmd hdecode hok => exact hinv.constructed hok
  | filled m hphase hfills => exact hinv.filled hphase hfills
  | exhausted hphase => exact hinv.exhausted hphase
  | nextAccepted hphase hresp => exact hinv.nextAccepted hphase hresp
  | counterFault hphase hbound => exact hinv.counterFault hphase hbound
  | ratcheted hphase hbound hresp => exact hinv.ratcheted hphase hbound hresp
  | sifted hphase hn hresp => exact hinv.sifted hphase hn hresp
  | folded hphase => exact hinv.folded hphase

end Sys2Proof.Safety

/-- Settles O11: in `UNINIT` the invariant asks for the configuration and empty hands alone. -/
theorem resetStateIsInvariant : Obligations.ResetStateIsInvariant :=
  ⟨.of_uninit rfl ⟨by decide, by decide⟩ rfl rfl, fun s hconf => ⟨_, exec_reset s, .of_reset hconf⟩⟩

/-- Settles O45: by the writes of RESET; the free `COUNTER` and `N` are drawn within their ranges. -/
theorem resetAbandonsEverything : Obligations.ResetAbandonsEverything := by
  intro s
  have hcounter : s.afterReset.counter ≤ s.ctrMax := Nat.le_of_lt_succ (Nat.mod_lt _ s.ctrMax.succ_pos)
  have hn : s.afterReset.n ≤ 256 := Nat.le_of_lt_succ (Config.freeN s.draws).isLt
  exact ⟨s.afterReset, exec_reset s, rfl, rfl, rfl, rfl, rfl, rfl, rfl, rfl, hcounter, hn, .of_reset⟩

/-- Settles O12: each move of the machine keeps the invariant. -/
theorem stepKeepsInvariant : Obligations.StepKeepsInvariant := fun _ _ hinv hstep =>
  hinv.of_moves (step_moves hstep)

/-- Settles O49: no move writes the configuration. -/
theorem configurationNeverChanges : Obligations.ConfigurationNeverChanges := by
  intro s t hstep
  cases step_moves hstep with
  | sifted => exact ⟨s.siftStep_registry, s.siftStep_ctrMax, s.siftStep_level⟩
  | _ => exact ⟨rfl, rfl, rfl⟩

/-- Settles O50: of the moves that a busy block makes, the counter fault and FOLD alone respond. -/
theorem busyPhasesAnswerOnlyOnLeaving : Obligations.BusyPhasesAnswerOnlyOnLeaving := by
  intro s t hbusy hresp hstep hanswer
  have hidle : phaseIdle s.phase = false := by simpa [busy] using hbusy
  cases step_moves hstep with
  | reset => exact absurd rfl hanswer
  | wait => exact absurd hresp hanswer
  | taken => exact absurd rfl hanswer
  | refused e hidle' => cases hidle.symm.trans hidle'
  | ratcheted => exact absurd hresp hanswer
  | sifted => exact absurd (s.siftStep_resp.trans hresp) hanswer
  | counterFault => exact .inr rfl
  | folded => exact .inl rfl
  | constructed _ _ _ _ hphase | filled _ hphase | exhausted hphase | nextAccepted hphase =>
    simp [hphase, phaseIdle] at hidle

/-- Settles O47: the construction is the one move out of `UNINIT`. -/
theorem onlyVerifiedSeedsLeaveUninit : Obligations.OnlyVerifiedSeedsLeaveUninit := by
  intro s t huninit hstep hleaves
  cases step_moves hstep with
  | constructed w cfg len seed _ hcmd hdecode hok =>
    obtain ⟨e, he, hlen, hsum⟩ := (initStatus_eq_ok_iff s cfg len seed).1 hok
    exact ⟨w, cfg, len, seed, e, hcmd, hdecode, he, hlen, hsum, rfl, rfl, hsum, rfl⟩
  | reset => exact absurd rfl hleaves
  | wait | taken | refused => exact absurd huninit hleaves
  | filled _ hphase | exhausted hphase | nextAccepted hphase | counterFault hphase | ratcheted hphase
  | sifted hphase | folded hphase => cases huninit.symm.trans hphase

/-- Settles O48: each move makes some number of whole ratchet steps, most of them none. -/
theorem onlyRatchetsMoveStateAndCounter : Obligations.OnlyRatchetsMoveStateAndCounter := by
  intro s t hphase hreset hstep
  cases step_moves hstep with
  | reset hreset' => cases hreset.symm.trans hreset'
  | constructed _ _ _ _ huninit => exact absurd huninit hphase
  | wait | taken | refused => exact ⟨hphase, rfl, 0, rfl, rfl⟩
  | filled m => exact ⟨hphase, rfl, m + 1, rfl, rfl⟩
  | exhausted => exact ⟨Phase.noConfusion, rfl, s.ctrMax - s.counter, rfl, rfl⟩
  | nextAccepted | counterFault | folded => exact ⟨Phase.noConfusion, rfl, 0, rfl, rfl⟩
  | ratcheted => exact ⟨Phase.noConfusion, rfl, 1, rfl, rfl⟩
  | sifted hsift =>
    refine ⟨?_, s.siftStep_seed, 0, s.siftStep_counter, s.siftStep_stateReg⟩
    rcases siftStep_phase_cases hsift with ⟨hp, -⟩ | ⟨hp | hp, -⟩ <;> simp [hp]
end

section
/-! No unspecified register value reaches a response (10_state.md R36, R38, 45_stream_generator_fsm.md R167):
each operation takes states a host cannot tell apart to such states. -/

open Sys2Proof Sys2Proof.Machine

namespace Sys2Proof.Safety

/-! ### What a rule reads of two such states -/

section
variable {s t : State}

theorem SameToHost.idle (h : SameToHost s t) (hidle : phaseIdle s.phase = true) : phaseIdle t.phase = true := by
  rwa [← h.phase]

theorem SameToHost.cmdReady_eq (h : SameToHost s t) : cmdReady s = cmdReady t := by
  rw [cmdReady, cmdReady, h.phase, h.resp]

theorem SameToHost.offered_eq (h : SameToHost s t) : offered s = offered t := by
  rw [offered, offered, h.resp, h.cmd]

theorem SameToHost.fetch_eq (h : SameToHost s t) : fetch s = fetch t := by
  rw [fetch, fetch, fetchMicro, fetchMicro, fetchCommand, fetchCommand, h.level, h.phase, h.cmd]

theorem SameToHost.initStatus_eq (h : SameToHost s t) (cfg : BitVec 6) (len : BitVec 8) (seed : Reg256) :
    initStatus s cfg len seed = initStatus t cfg len seed := by
  rw [initStatus, initStatus, h.registry]

/-- NEXT is read in `READY` alone, where `STATE` and `COUNTER` agree. -/
theorem SameToHost.collect_eq (h : SameToHost s t) (hphase : s.phase = .ready) :
    collect s.ctrMax s.stateReg s.counter = collect t.ctrMax t.stateReg t.counter := by
  obtain ⟨hstate, hcounter⟩ := h.pair (by simp [hphase]) (by simp [hphase])
  rw [h.ctrMax, hstate, hcounter]

/-! ### The shared operations -/

theorem SameToHost.accepted (h : SameToHost s t) : SameToHost s.accepted t.accepted :=
  { h with cmd := rfl }

theorem SameToHost.respond (h : SameToHost s t) (e : Status) (out : Out128) :
    SameToHost (s.respond e out) (t.respond e out) :=
  { h with resp := rfl }

theorem SameToHost.raise (h : SameToHost s t) (e : Status) : SameToHost (s.raise e) (t.raise e) := h.respond e 0

theorem SameToHost.waitForTake (h : SameToHost s t) : SameToHost s.waitForTake t.waitForTake := by
  have hready := h.respReady
  unfold State.waitForTake
  split_ifs with hs ht ht
  · exact { h with resp := rfl }
  · exact absurd (hready ▸ hs) ht
  · exact absurd (hready ▸ ht) hs
  · exact h

/-- After reset nothing is read before it is written, so the free values may differ (R36). -/
theorem SameToHost.afterReset (h : SameToHost s t) : SameToHost s.afterReset t.afterReset :=
  { h with
    phase := rfl
    resp := rfl
    resetIn := rfl
    pair := absurd rfl
    held := nofun
    idx := nofun
    all := nofun }

/-- The construction writes `STATE` and `COUNTER`. -/
theorem SameToHost.constructed (h : SameToHost s t) (seed d : Reg256) :
    SameToHost (s.constructed seed d) (t.constructed seed d) :=
  { h with
    phase := rfl
    resp := rfl
    pair := fun _ _ => ⟨rfl, rfl⟩
    held := nofun
    idx := nofun
    all := nofun }

theorem SameToHost.construct (h : SameToHost s t) (cfg : BitVec 6) (len : BitVec 8) (seed : Reg256) :
    SameToHost (s.construct cfg len seed) (t.construct cfg len seed) := by
  rw [construct_eq, construct_eq, ← h.initStatus_eq]
  split
  · exact h.constructed _ _
  · exact h.raise _

/-- In `FAULT` no data register is read (R196). -/
theorem SameToHost.counterFault (h : SameToHost s t) : SameToHost s.counterFault t.counterFault :=
  { h with
    phase := rfl
    resp := rfl
    pair := fun _ hne => absurd rfl hne
    held := nofun
    idx := nofun
    all := nofun }

/-- NEXT taken whole leaves `BITS`, `N` and `IDX` free, and nothing reads them in `READY` or `FAULT` (R38). -/
theorem SameToHost.finishNext (h : SameToHost s t) (hphase : s.phase = .ready) (r : Collected) :
    SameToHost (s.finishNext r) (t.finishNext r) := by
  cases r with
  | filled bits st c =>
    exact { h with
      resp := rfl
      pair := fun _ _ => ⟨rfl, rfl⟩
      held := fun hbusy => by simp [busy, State.finishNext, hphase, phaseIdle] at hbusy
      idx := fun hsift => nomatch hphase.symm.trans hsift
      all := fun hfold => nomatch hphase.symm.trans hfold }
  | exhausted st c =>
    exact { h with
      phase := rfl
      resp := rfl
      pair := fun _ hne => absurd rfl hne
      held := nofun
      idx := nofun
      all := nofun }

/-! ### The commands -/

theorem SameToHost.initCommand (h : SameToHost s t) (hidle : phaseIdle s.phase = true) (cfg : BitVec 6)
    (len : BitVec 8) (seed : Reg256) : SameToHost (s.initCommand cfg len seed) (t.initCommand cfg len seed) := by
  have hphase := h.phase
  rcases phaseIdle_cases hidle with hs | hs | hs
  · rw [initCommand_of_uninit cfg len seed hs, initCommand_of_uninit cfg len seed (hphase.symm.trans hs)]
    exact h.construct cfg len seed
  · rw [initCommand_of_ready cfg len seed hs, initCommand_of_ready cfg len seed (hphase.symm.trans hs)]
    exact h.raise _
  · rw [initCommand_of_fault cfg len seed hs, initCommand_of_fault cfg len seed (hphase.symm.trans hs)]
    exact h.raise _

theorem SameToHost.nextCommand (h : SameToHost s t) (hidle : phaseIdle s.phase = true) :
    SameToHost s.nextCommand t.nextCommand := by
  have hphase := h.phase
  rcases phaseIdle_cases hidle with hs | hs | hs
  · rw [nextCommand_of_uninit hs, nextCommand_of_uninit (hphase.symm.trans hs)]
    exact h.raise _
  · rw [nextCommand_of_ready hs, nextCommand_of_ready (hphase.symm.trans hs), ← h.collect_eq hs]
    exact h.finishNext hs _
  · rw [nextCommand_of_fault hs, nextCommand_of_fault (hphase.symm.trans hs)]
    exact h.raise _

/-! ### The idle micro-steps -/

theorem SameToHost.uninitDispatch (h : SameToHost s t) (w : CmdWord) :
    SameToHost (s.uninitDispatch w) (t.uninitDispatch w) := by
  unfold State.uninitDispatch
  split_ifs
  · exact h.raise _
  · exact h.raise _
  · exact h.construct _ _ _

/-- An accepted NEXT holds no bits yet (R176). -/
theorem SameToHost.readyDispatch (h : SameToHost s t) (hphase : s.phase = .ready) (w : CmdWord) :
    SameToHost (s.readyDispatch w) (t.readyDispatch w) := by
  unfold State.readyDispatch
  split_ifs
  · exact h.raise _
  · exact h.raise _
  · exact { h with
      phase := rfl
      pair := fun _ _ => h.pair (by simp [hphase]) (by simp [hphase])
      held := fun _ => ⟨rfl, nofun⟩
      idx := nofun
      all := nofun }

theorem SameToHost.faultDispatch (h : SameToHost s t) (w : CmdWord) :
    SameToHost (s.faultDispatch w) (t.faultDispatch w) := by
  rw [faultDispatch_eq, faultDispatch_eq]
  exact h.raise _

/-! ### The busy micro-steps -/

/-- RATCHET writes `IDX`. -/
theorem SameToHost.ratcheted (h : SameToHost s t) (hphase : s.phase = .ratchet) :
    SameToHost { s.ratcheted with phase := .sift } { t.ratcheted with phase := .sift } := by
  obtain ⟨hstate, hcounter⟩ := h.pair (by simp [hphase]) (by simp [hphase])
  exact { h with
    phase := rfl
    pair := fun _ _ => by simp [hstate, hcounter]
    held := fun _ => h.held (by simp [busy, hphase, phaseIdle])
    idx := fun _ => rfl
    all := nofun }

/-- In `SIFT` the byte examined, `N` and the entries below it agree, so they agree afterwards. -/
theorem SameToHost.sifted (h : SameToHost s t) (hphase : s.phase = .sift) (hn : s.n < 256) :
    SameToHost s.sifted.afterSift t.sifted.afterSift := by
  obtain ⟨hstate, hcounter⟩ := h.pair (by simp [hphase]) (by simp [hphase])
  obtain ⟨hcount, hbits⟩ := h.held (by simp [busy, hphase, phaseIdle])
  have hidx := h.idx hphase
  have hbyte : stateByte s = stateByte t := by rw [stateByte, stateByte, hstate, hidx]
  have haccept : accept s = accept t := by rw [accept, accept, hbyte]
  have hcount' : s.sifted.n = t.sifted.n := by rw [State.sifted_n, State.sifted_n, haccept, hcount]
  have hbits' : ∀ j < s.sifted.n, bitsRead s.sifted.bits j = bitsRead t.sifted.bits j := by
    intro j hj
    have hle := sifted_n_le (s := s)
    rw [bitsRead_sifted hn (by omega), bitsRead_sifted (hcount ▸ hn) (by omega), haccept, hbyte, hcount]
    split
    · rfl
    next hnew =>
      refine hbits j ?_
      rw [State.sifted_n, haccept] at hj
      split at hj
      next hacc => exact Nat.lt_of_le_of_ne (Nat.le_of_lt_succ hj) fun heq => hnew ⟨hacc, heq.trans hcount⟩
      next => exact hj
  exact {
    phase := by rw [sifted_afterSift_eq, sifted_afterSift_eq, hcount', hidx, h.phase]
    registry := by simpa using h.registry
    ctrMax := by simpa using h.ctrMax
    cmd := by simpa using h.cmd
    resp := by simpa using h.resp
    respReady := by simpa using h.respReady
    resetIn := by simpa using h.resetIn
    level := by simpa using h.level
    pair := fun _ _ => by simp [hstate, hcounter]
    held := fun _ => by
      rw [State.siftStep_n, State.siftStep_n, State.afterSift_bits, State.afterSift_bits]
      exact ⟨hcount', hbits'⟩
    idx := fun _ => by rw [sifted_afterSift_eq, sifted_afterSift_eq, hcount', hidx]
    all := fun hfold => by
      rcases siftStep_phase_cases hphase with ⟨-, hfull⟩ | ⟨hp | hp, -⟩
      · rw [State.afterSift_bits, State.afterSift_bits, ← hfull]
        exact hbits'
      · cases hp.symm.trans hfold
      · cases hp.symm.trans hfold }

/-- In `FOLD` the whole file agrees, and so does its fold. -/
theorem SameToHost.folded (h : SameToHost s t) (hphase : s.phase = .fold) :
    SameToHost ({ s with phase := .ready }.respond .ok (foldBits (bitsRead s.bits)))
      ({ t with phase := .ready }.respond .ok (foldBits (bitsRead t.bits))) := by
  rw [foldBits_congr (h.all hphase)]
  exact { h with
    phase := rfl
    resp := rfl
    pair := fun _ _ => h.pair (by simp [hphase]) (by simp [hphase])
    held := nofun
    idx := nofun
    all := nofun }

end

/-! ### The step -/

/-- Where the first outcome is a next state, the second is one that a host cannot tell from it. -/
def SameAnswer (o o' : Host.Outcome State Fault Refusal) : Prop :=
  ∀ s', o = .next s' → ∃ t', o' = .next t' ∧ SameToHost s' t'

theorem SameToHost.answer {s t : State} (h : SameToHost s t) : SameAnswer (.next s) (.next t) := by
  rintro s' ⟨⟩
  exact ⟨t, rfl, h⟩

/-- A command is taken or waits, on both sides. -/
theorem SameToHost.exec_command {s t : State} (h : SameToHost s t) (hidle : phaseIdle s.phase = true)
    (hresp : s.resp = none) (w : CmdWord) : SameAnswer (exec (decodeCommand w) s) (exec (decodeCommand w) t) := by
  have hports : cmdReady s = true := (cmdReady_iff s).2 ⟨hidle, hresp⟩
  have hportt : cmdReady t = true := h.cmdReady_eq ▸ hports
  rcases opField_kinds w with hop | hop | hop
  · rw [exec_decodeCommand_of_reserved hports hop, exec_decodeCommand_of_reserved hportt hop]
    exact (h.accepted.raise _).answer
  · rw [exec_decodeCommand_of_init hports hop, exec_decodeCommand_of_init hportt hop]
    exact (h.accepted.initCommand hidle _ _ _).answer
  · rw [exec_decodeCommand_of_next hports hop, exec_decodeCommand_of_next hportt hop]
    exact (h.accepted.nextCommand hidle).answer

/-- An idle micro-step waits on both sides, or dispatches the same word on both (R174). -/
theorem SameToHost.idle_answer {s t : State} (h : SameToHost s t) (i : Instr) (f : State → CmdWord → State)
    (hwait : ∀ u, offered u = none → exec i u = .next u)
    (hrun : ∀ u w, offered u = some w → exec i u = .next (f u.accepted w))
    (hsame : ∀ w, SameToHost (f s.accepted w) (f t.accepted w)) : SameAnswer (exec i s) (exec i t) := by
  cases hs : offered s with
  | none =>
    rw [hwait s hs, hwait t (h.offered_eq ▸ hs)]
    exact h.answer
  | some w =>
    rw [hrun s w hs, hrun t w (h.offered_eq ▸ hs)]
    exact (hsame w).answer

theorem SameToHost.exec_ratchet {s t : State} (h : SameToHost s t) (hphase : s.phase = .ratchet) :
    SameAnswer (exec .ratchet s) (exec .ratchet t) := by
  obtain ⟨-, hcounter⟩ := h.pair (by simp [hphase]) (by simp [hphase])
  have hctrMax := h.ctrMax
  rcases Nat.lt_or_ge s.counter s.ctrMax with hlt | hge
  · rw [exec_ratchet_of_counter_lt hlt, exec_ratchet_of_counter_lt (by omega)]
    exact (h.ratcheted hphase).answer
  · rw [exec_ratchet_of_ctrMax_le hge, exec_ratchet_of_ctrMax_le (by omega)]
    exact h.counterFault.answer

theorem SameToHost.exec_sift {s t : State} (h : SameToHost s t) (hphase : s.phase = .sift) :
    SameAnswer (exec .sift s) (exec .sift t) := by
  obtain ⟨hcount, -⟩ := h.held (by simp [busy, hphase, phaseIdle])
  rcases Nat.lt_or_ge s.n 256 with hlt | hge
  · rw [exec_sift_of_n_lt hlt, exec_sift_of_n_lt (hcount ▸ hlt)]
    exact (h.sifted hphase hlt).answer
  · rw [exec_sift_of_n_ge hge]
    rintro s' ⟨⟩

/-- The micro-step a phase selects (R78). -/
theorem SameToHost.exec_micro {s t : State} (h : SameToHost s t) {i : Instr}
    (hdecode : decodePhase (phaseCode s.phase) = .ok i) : SameAnswer (exec i s) (exec i t) := by
  rw [decodePhase_phaseCode] at hdecode
  obtain rfl := Except.ok.inj hdecode
  cases hphase : s.phase with
  | uninit =>
    exact h.idle_answer .idleUninit State.uninitDispatch (fun _ hu => (exec_idle_of_not_offered hu).1)
      (fun _ _ => exec_idleUninit_of_offered) h.accepted.uninitDispatch
  | ready =>
    exact h.idle_answer .idleReady State.readyDispatch (fun _ hu => (exec_idle_of_not_offered hu).2.1)
      (fun _ _ => exec_idleReady_of_offered) (h.accepted.readyDispatch hphase)
  | fault =>
    exact h.idle_answer .idleFault State.faultDispatch (fun _ hu => (exec_idle_of_not_offered hu).2.2)
      (fun _ _ => exec_idleFault_of_offered) h.accepted.faultDispatch
  | ratchet => exact h.exec_ratchet hphase
  | sift => exact h.exec_sift hphase
  | fold => exact (h.folded hphase).answer

/-- A step of one is matched by a step of the other. -/
theorem SameToHost.step {s t : State} (h : SameToHost s t) : SameAnswer (step s) (step t) := by
  by_cases hreset : s.resetIn = true
  · rw [step_of_resetIn hreset, step_of_resetIn (h.resetIn ▸ hreset)]
    exact h.afterReset.answer
  have hlow : s.resetIn = false := by simpa using hreset
  have hlow' : t.resetIn = false := h.resetIn ▸ hlow
  cases hresp : s.resp with
  | some r =>
    rw [step_of_resp hlow hresp, step_of_resp hlow' (h.resp ▸ hresp)]
    exact h.waitForTake.answer
  | none =>
    cases hfetch : fetch s with
    | none =>
      rw [step_of_fetch_none hlow hresp hfetch, step_of_fetch_none hlow' (h.resp ▸ hresp) (h.fetch_eq ▸ hfetch)]
      exact h.answer
    | some i =>
      rw [step_of_fetch hlow hresp hfetch, step_of_fetch hlow' (h.resp ▸ hresp) (h.fetch_eq ▸ hfetch)]
      rcases fetch_cases s i hfetch with ⟨-, hidle, w, -, rfl⟩ | ⟨-, hdecode⟩
      · exact h.exec_command hidle hresp w
      · exact h.exec_micro hdecode

end Sys2Proof.Safety

/-- Settles O15: each operation, so each step, keeps what a host can see the same. -/
theorem unspecifiedRegistersNeverShow : Obligations.UnspecifiedRegistersNeverShow := fun _ _ s' h => h.step s'
end

section
/-! The micro-steps up to the first response agree with the command taken whole (45_stream_generator_fsm.md R183):
a simulation of the loop of COLLECT by the steps in `RATCHET`, `SIFT` and `FOLD`. -/

open Sys2Proof Sys2Proof.Machine Sys2Proof.Safety

namespace Sys2Proof.Machine

/-! ### Runs without a response -/

/-- A run of steps, none of them from a state in which a response waits. -/
inductive SilentRun : State → State → Prop
  | refl (s : State) : SilentRun s s
  | head {s m t : State} (hresp : s.resp = none) (hstep : step s = .next m) (h : SilentRun m t) : SilentRun s t

theorem SilentRun.single {s t : State} (hresp : s.resp = none) (hstep : step s = .next t) : SilentRun s t :=
  .head hresp hstep (.refl t)

theorem SilentRun.trans {s m t : State} (h : SilentRun s m) (h' : SilentRun m t) : SilentRun s t := by
  induction h with
  | refl => exact h'
  | head hresp hstep _ ih => exact .head hresp hstep (ih h')

theorem run_succ_of_step {s m : State} (h : step s = .next m) (k : Nat) : run (k + 1) s = run k m := by
  rw [run, h]

theorem SilentRun.exists_run {s t : State} (h : SilentRun s t) :
    ∃ k, run k s = .next t ∧ ∀ j < k, ∃ m, run j s = .next m ∧ m.resp = none := by
  induction h with
  | refl s => exact ⟨0, rfl, nofun⟩
  | @head s m t hresp hstep _ ih =>
    obtain ⟨k, hrun, hsilent⟩ := ih
    refine ⟨k + 1, (run_succ_of_step hstep k).trans hrun, fun j hj => ?_⟩
    cases j with
    | zero => exact ⟨s, rfl, hresp⟩
    | succ j =>
      rw [run_succ_of_step hstep]
      exact hsilent j (Nat.lt_of_succ_lt_succ hj)

/-- A busy block runs the step of its phase, at either level. -/
theorem step_of_busy {s : State} {i : Instr} (hreset : s.resetIn = false) (hresp : s.resp = none)
    (hbusy : phaseIdle s.phase = false) (hdecode : decodePhase (phaseCode s.phase) = .ok i) :
    step s = exec i s :=
  step_of_fetch hreset hresp (fetch_of_micro (.inr hbusy) hdecode)

/-! ### The state of a collection -/

/-- `s` is a block at work on the NEXT accepted in `u`: it holds `STATE = st` and `COUNTER = c`, and the bits
`held` so far in the first `N` entries of `BITS`. -/
structure Collecting (u : State) (st : Reg256) (c : Nat) (held : List Bool) (s : State) : Prop where
  resetIn : s.resetIn = false
  resp : s.resp = none
  ctrMax : s.ctrMax = u.ctrMax
  seed : s.seed = u.seed
  stateReg : s.stateReg = st
  counter : s.counter = c
  n : s.n = held.length
  bits : ∀ j < held.length, bitsRead s.bits j = held.getD j false

/-- The registers R183 compares, and the response. -/
structure AgreesWith (t u : State) : Prop where
  resp : t.resp = u.resp
  phase : t.phase = u.phase
  stateReg : t.stateReg = u.stateReg
  counter : t.counter = u.counter
  seed : t.seed = u.seed

/-- The bits held once byte `b` has been examined (R141). -/
def heldAfter (b : Byte) (held : List Bool) : List Bool :=
  if acceptByte b then held ++ [selectedBit b] else held

theorem length_heldAfter (b : Byte) (held : List Bool) :
    (heldAfter b held).length = if acceptByte b then held.length + 1 else held.length := by
  unfold heldAfter
  split <;> simp

/-- An accepted byte's bit stands behind the bits held, which stay where they are. -/
theorem getD_heldAfter (b : Byte) (held : List Bool) (j : Nat) :
    (heldAfter b held).getD j false =
      if acceptByte b = true ∧ j = held.length then b.getLsbD 0 else held.getD j false := by
  unfold heldAfter
  cases acceptByte b with
  | false => simp
  | true =>
    rcases Nat.lt_trichotomy j held.length with hlt | rfl | hgt
    · simp [Nat.ne_of_lt hlt, List.getElem?_append_left hlt]
    · simp [selectedBit, bitAt]
    · simp [Nat.ne_of_gt hgt, List.getElem?_eq_none, Nat.le_of_lt hgt, Nat.succ_le_of_lt hgt]

theorem lt_length_of_lt_heldAfter {b : Byte} {held : List Bool} {j : Nat} (hj : j < (heldAfter b held).length)
    (hold : ¬ (acceptByte b = true ∧ j = held.length)) : j < held.length := by
  rw [length_heldAfter] at hj
  split at hj
  next hacc => exact Nat.lt_of_le_of_ne (Nat.le_of_lt_succ hj) fun heq => hold ⟨hacc, heq⟩
  next => exact hj

section
variable {u s : State} {st : Reg256} {c : Nat} {held : List Bool}

theorem Collecting.stateByte_eq (h : Collecting u st c held s) : stateByte s = byteAt st s.idx := by
  rw [stateByte, h.stateReg]

theorem Collecting.sifted_n (h : Collecting u st c held s) :
    s.sifted.n = (heldAfter (byteAt st s.idx) held).length := by
  rw [State.sifted_n, accept, h.stateByte_eq, length_heldAfter, h.n]

/-- The step in `SIFT` appends the bit of an accepted byte. -/
theorem Collecting.sifted (h : Collecting u st c held s) (hlt : held.length < 256) :
    Collecting u st c (heldAfter (byteAt st s.idx) held) s.sifted.afterSift where
  resetIn := by rw [State.siftStep_resetIn, h.resetIn]
  resp := by rw [State.siftStep_resp, h.resp]
  ctrMax := by rw [State.siftStep_ctrMax, h.ctrMax]
  seed := by rw [State.siftStep_seed, h.seed]
  stateReg := by rw [State.siftStep_stateReg, h.stateReg]
  counter := by rw [State.siftStep_counter, h.counter]
  n := by rw [State.siftStep_n, h.sifted_n]
  bits j hj := by
    have hle := sifted_n_le (s := s)
    have hj' : j < s.sifted.n := h.sifted_n ▸ hj
    have hn : s.n < 256 := h.n ▸ hlt
    rw [State.afterSift_bits, bitsRead_sifted hn (by omega), accept, h.stateByte_eq, h.n, getD_heldAfter]
    split
    · rfl
    next hold => exact h.bits j (lt_length_of_lt_heldAfter hj hold)

/-! ### One block -/

theorem scanBlock_cons (b : Byte) (rest : List Byte) {held : List Bool} (h : held.length < 256) :
    scanBlock (b :: rest) held = scanBlock rest (heldAfter b held) :=
  if_neg (Nat.ne_of_lt h)

theorem scanBlock_of_full (bytes : List Byte) {held : List Bool} (h : held.length = 256) :
    scanBlock bytes held = held := by
  cases bytes with
  | nil => rfl
  | cons b rest => exact if_pos h

theorem drop_bytesOf (v : Reg256) {i : Nat} (h : i < 32) :
    (bytesOf v).drop i = byteAt v i :: (bytesOf v).drop (i + 1) := by
  have hlen : i < (bytesOf v).length := by rw [length_bytesOf]; exact h
  rw [List.drop_eq_getElem_cons hlen]
  simp [bytesOf]

/-- The steps in `SIFT` scan what is left of the block, and stop as the scan does. -/
theorem sift_scan (h : Collecting u st c held s) (hphase : s.phase = .sift) (hlt : held.length < 256) :
    ∃ t, SilentRun s t ∧ Collecting u st c (scanBlock ((bytesOf st).drop s.idx) held) t ∧
      t.phase = if (scanBlock ((bytesOf st).drop s.idx) held).length = 256 then .fold else .ratchet := by
  have hidx : s.idx.val < 32 := s.idx.isLt
  induction hleft : 32 - s.idx.val generalizing s held with
  | zero => omega
  | succ k ih =>
    have hn : s.n < 256 := h.n ▸ hlt
    have hstep : step s = .next s.sifted.afterSift := by
      rw [step_of_busy h.resetIn h.resp (by rw [hphase]; rfl) (by rw [hphase]; rfl), exec_sift_of_n_lt hn]
    have hrun := SilentRun.single h.resp hstep
    have hnext := h.sifted hlt
    rw [drop_bytesOf st hidx, scanBlock_cons _ _ hlt]
    by_cases hfull : s.sifted.n = 256
    · have hheld := h.sifted_n.symm.trans hfull
      rw [scanBlock_of_full _ hheld, if_pos hheld]
      exact ⟨_, hrun, hnext, siftStep_phase_of_full hfull⟩
    have hnotfull : (heldAfter (byteAt st s.idx) held).length ≠ 256 := h.sifted_n ▸ hfull
    by_cases hlast : s.idx = 31
    · have hrest : (bytesOf st).drop (s.idx + 1) = [] :=
        List.drop_eq_nil_of_le (by rw [length_bytesOf, hlast]; decide)
      rw [hrest, scanBlock, if_neg hnotfull]
      exact ⟨_, hrun, hnext, siftStep_phase_of_last hfull hlast⟩
    · have hsucc : (s.idx + 1).val = s.idx.val + 1 := Fin.val_add_one_of_lt (Fin.lt_last_iff_ne_last.2 hlast)
      have hidx' : s.sifted.afterSift.idx = s.idx + 1 := siftStep_idx_of_more hfull hlast
      have hlt' : (heldAfter (byteAt st s.idx) held).length < 256 := by
        have hle := sifted_n_le (s := s)
        rw [← h.sifted_n]
        omega
      have hphase' : s.sifted.afterSift.phase = .sift := (siftStep_phase_of_more hfull hlast).trans hphase
      obtain ⟨t, htail, ht, htphase⟩ := ih hnext hphase' hlt' (by rw [hidx']; omega) (by rw [hidx']; omega)
      rw [hidx', hsucc] at ht htphase
      exact ⟨t, hrun.trans htail, ht, htphase⟩

/-! ### The loop of COLLECT -/

theorem collectLoop_zero_of_lt (st : Reg256) (c : Nat) (h : held.length < 256) :
    collectLoop 0 st c held = .exhausted st c := if_pos h

theorem collectLoop_succ_of_lt (fuel : Nat) (st : Reg256) (c : Nat) (h : held.length < 256) :
    collectLoop (fuel + 1) st c held =
      collectLoop fuel (ratchetHash st c) (c + 1) (scanBlock (bytesOf (ratchetHash st c)) held) := if_pos h

theorem collectLoop_of_full (fuel : Nat) (st : Reg256) (c : Nat) (h : held.length = 256) :
    collectLoop fuel st c held = .filled held st c := by
  have hfull : ¬ held.length < 256 := by omega
  cases fuel with
  | zero => exact if_neg hfull
  | succ fuel => exact if_neg hfull

theorem length_scanBlock_le (bytes : List Byte) (h : held.length ≤ 256) :
    (scanBlock bytes held).length ≤ 256 := by
  rw [scanBlock_eq bytes held h]
  exact List.length_take_le _ _

/-- With the counter exhausted the step in `RATCHET` ends the NEXT as the loop does. -/
theorem ratchet_step_of_exhausted (h : Collecting u st c held s) (hphase : s.phase = .ratchet)
    (hbound : u.ctrMax ≤ c) :
    ∃ t, step s = .next t ∧ AgreesWith t (u.finishNext (.exhausted st c)) := by
  have hstep := step_of_busy h.resetIn h.resp (by rw [hphase]; rfl) (i := .ratchet) (by rw [hphase]; rfl)
  rw [exec_ratchet_of_ctrMax_le (by rw [h.ctrMax, h.counter]; exact hbound)] at hstep
  exact ⟨_, hstep, rfl, rfl, h.stateReg, h.counter, h.seed⟩

/-- Else it takes a ratchet step and starts the next block. -/
theorem ratchet_step_of_lt (h : Collecting u st c held s) (hphase : s.phase = .ratchet) (hbound : c < u.ctrMax) :
    ∃ t, step s = .next t ∧ Collecting u (ratchetHash st c) (c + 1) held t ∧ t.phase = .sift ∧ t.idx = 0 := by
  have hstep := step_of_busy h.resetIn h.resp (by rw [hphase]; rfl) (i := .ratchet) (by rw [hphase]; rfl)
  rw [exec_ratchet_of_counter_lt (by rw [h.ctrMax, h.counter]; exact hbound)] at hstep
  exact ⟨_, hstep, { h with
    stateReg := by simp [h.stateReg, h.counter]
    counter := by simp [h.counter] }, rfl, rfl⟩

/-- The step in `FOLD` ends the NEXT as a filled collection does. -/
theorem fold_step (h : Collecting u st c held s) (hphase : s.phase = .fold) (hfull : held.length = 256)
    (hready : u.phase = .ready) :
    ∃ t, step s = .next t ∧ AgreesWith t (u.finishNext (.filled held st c)) := by
  have hstep := step_of_busy h.resetIn h.resp (by rw [hphase]; rfl) (i := .fold) (by rw [hphase]; rfl)
  rw [exec_fold, foldBits_congr fun j hj => h.bits j (hfull.symm ▸ hj)] at hstep
  exact ⟨_, hstep, rfl, hready.symm, h.stateReg, h.counter, h.seed⟩

/-- From `RATCHET` with fewer than 256 bits held, the micro-steps end the NEXT as the loop of COLLECT does. -/
theorem collectLoop_run (fuel : Nat) (h : Collecting u st c held s) (hphase : s.phase = .ratchet)
    (hlt : held.length < 256) (hfuel : u.ctrMax - c = fuel) (hready : u.phase = .ready) :
    ∃ t, SilentRun s t ∧ AgreesWith t (u.finishNext (collectLoop fuel st c held)) := by
  induction fuel generalizing s st c held with
  | zero =>
    obtain ⟨t, hstep, ht⟩ := ratchet_step_of_exhausted h hphase (by omega)
    rw [collectLoop_zero_of_lt st c hlt]
    exact ⟨t, .single h.resp hstep, ht⟩
  | succ fuel ih =>
    obtain ⟨s₁, hstep₁, h₁, hphase₁, hidx₁⟩ := ratchet_step_of_lt h hphase (by omega)
    obtain ⟨s₂, hrun₂, h₂, hphase₂⟩ := sift_scan h₁ hphase₁ hlt
    have hrun := SilentRun.head h.resp hstep₁ hrun₂
    have hdrop : (bytesOf (ratchetHash st c)).drop s₁.idx = bytesOf (ratchetHash st c) := by
      rw [hidx₁]
      exact List.drop_zero
    rw [hdrop] at h₂ hphase₂
    rw [collectLoop_succ_of_lt fuel st c hlt]
    by_cases hfull : (scanBlock (bytesOf (ratchetHash st c)) held).length = 256
    · rw [if_pos hfull] at hphase₂
      obtain ⟨t, hstep, ht⟩ := fold_step h₂ hphase₂ hfull hready
      rw [collectLoop_of_full fuel _ _ hfull]
      exact ⟨t, hrun.trans (.single h₂.resp hstep), ht⟩
    · rw [if_neg hfull] at hphase₂
      have hle := length_scanBlock_le (bytesOf (ratchetHash st c)) (Nat.le_of_lt hlt)
      obtain ⟨t, hrun', ht⟩ := ih h₂ hphase₂ (by omega) (by omega)
      exact ⟨t, hrun.trans hrun', ht⟩

end

/-! ### A command word at each level -/

section
variable {s : State} {w : CmdWord}

theorem exec_decodeCommand_of_uninit (hport : cmdReady s = true) (hphase : s.phase = .uninit) :
    exec (decodeCommand w) s = .next (s.accepted.uninitDispatch w) := by
  rcases opField_kinds w with hop | hop | hop
  · rw [exec_decodeCommand_of_reserved hport hop, uninitDispatch_of_reserved _ hop]
  · rw [exec_decodeCommand_of_init hport hop, uninitDispatch_of_init _ hop,
      initCommand_of_uninit (s := s.accepted) _ _ _ hphase]
  · rw [exec_decodeCommand_of_next hport hop, uninitDispatch_of_next _ hop,
      nextCommand_of_uninit (s := s.accepted) hphase]

theorem exec_decodeCommand_of_ready (hport : cmdReady s = true) (hphase : s.phase = .ready)
    (hop : opField w ≠ 0b10) : exec (decodeCommand w) s = .next (s.accepted.readyDispatch w) := by
  rcases opField_kinds w with hop' | hop' | hop'
  · rw [exec_decodeCommand_of_reserved hport hop', readyDispatch_of_reserved _ hop']
  · rw [exec_decodeCommand_of_init hport hop', readyDispatch_of_init _ hop',
      initCommand_of_ready (s := s.accepted) _ _ _ hphase]
  · exact absurd hop' hop

theorem exec_decodeCommand_of_fault (hport : cmdReady s = true) (hphase : s.phase = .fault) :
    exec (decodeCommand w) s = .next (s.accepted.faultDispatch w) := by
  rw [faultDispatch_eq]
  rcases opField_kinds w with hop | hop | hop
  · rw [exec_decodeCommand_of_reserved hport hop, if_pos hop]
  · rw [exec_decodeCommand_of_init hport hop, initCommand_of_fault (s := s.accepted) _ _ _ hphase,
      if_neg (by rw [hop]; decide)]
  · rw [exec_decodeCommand_of_next hport hop, nextCommand_of_fault (s := s.accepted) hphase,
      if_neg (by rw [hop]; decide)]

/-- The micro-step of an idle phase accepts the presented word. -/
theorem step_of_idle_micro (hlevel : s.level = .micro) (hport : cmdReady s = true) (hreset : s.resetIn = false)
    (hcmd : s.cmd = some w) :
    (s.phase = .uninit → step s = .next (s.accepted.uninitDispatch w)) ∧
    (s.phase = .ready → step s = .next (s.accepted.readyDispatch w)) ∧
    (s.phase = .fault → step s = .next (s.accepted.faultDispatch w)) := by
  obtain ⟨-, hresp⟩ := (cmdReady_iff s).1 hport
  have hoffered : offered s = some w := (offered_eq_some_iff s w).2 ⟨hresp, hcmd⟩
  refine ⟨fun hphase => ?_, fun hphase => ?_, fun hphase => ?_⟩ <;>
    rw [step_of_fetch hreset hresp (fetch_of_micro (.inl hlevel) (decodePhase_phaseCode s.phase))] <;>
    simp only [hphase]
  · exact exec_idleUninit_of_offered hoffered
  · exact exec_idleReady_of_offered hoffered
  · exact exec_idleFault_of_offered hoffered

/-- A NEXT accepted in `READY` at the micro-step level ends as the whole command does. -/
theorem next_run (hlevel : s.level = .micro) (hport : cmdReady s = true) (hreset : s.resetIn = false)
    (hcmd : s.cmd = some w) (hphase : s.phase = .ready) (hop : opField w = 0b10) :
    ∃ t u, SilentRun s t ∧ exec (decodeCommand w) s = .next u ∧ AgreesWith t u := by
  obtain ⟨-, hresp⟩ := (cmdReady_iff s).1 hport
  have hstep := (step_of_idle_micro hlevel hport hreset hcmd).2.1 hphase
  rw [readyDispatch_of_next _ hop] at hstep
  have hstart : Collecting s.accepted s.stateReg s.counter [] { s.accepted with n := 0, phase := .ratchet } :=
    ⟨hreset, hresp, rfl, rfl, rfl, rfl, rfl, nofun⟩
  obtain ⟨t, hrun, hagrees⟩ := collectLoop_run _ hstart rfl (by decide) rfl hphase
  refine ⟨t, _, .head hresp hstep hrun, exec_decodeCommand_of_next hport hop, ?_⟩
  rw [nextCommand_of_ready (s := s.accepted) hphase]
  exact hagrees

/-- Every other command is answered in one micro-step, with the same next state. -/
theorem answered_at_once (hlevel : s.level = .micro) (hport : cmdReady s = true) (hreset : s.resetIn = false)
    (hcmd : s.cmd = some w) (hother : ¬ (s.phase = .ready ∧ opField w = 0b10)) :
    ∃ t, step s = .next t ∧ exec (decodeCommand w) s = .next t := by
  obtain ⟨hidle, -⟩ := (cmdReady_iff s).1 hport
  obtain ⟨huninit, hready, hfault⟩ := step_of_idle_micro hlevel hport hreset hcmd
  rcases phaseIdle_cases hidle with hphase | hphase | hphase
  · exact ⟨_, huninit hphase, exec_decodeCommand_of_uninit hport hphase⟩
  · exact ⟨_, hready hphase, exec_decodeCommand_of_ready hport hphase fun hop => hother ⟨hphase, hop⟩⟩
  · exact ⟨_, hfault hphase, exec_decodeCommand_of_fault hport hphase⟩

end

end Sys2Proof.Machine

/-- Settles O14: a NEXT in `READY` runs as the loop of COLLECT does; every other command takes one micro-step. -/
theorem microStepsAgreeWithCommands : Obligations.MicroStepsAgreeWithCommands := by
  intro s w hlevel hport hreset hcmd
  obtain ⟨-, hresp⟩ := (cmdReady_iff s).1 hport
  have hagree : ∃ t u, SilentRun s t ∧ exec (decodeCommand w) s = .next u ∧ AgreesWith t u := by
    by_cases hnext : s.phase = .ready ∧ opField w = 0b10
    · obtain ⟨hphase, hop⟩ := hnext
      exact next_run hlevel hport hreset hcmd hphase hop
    · obtain ⟨t, hstep, hexec⟩ := answered_at_once hlevel hport hreset hcmd hnext
      exact ⟨t, t, .single hresp hstep, hexec, ⟨rfl, rfl, rfl, rfl, rfl⟩⟩
  obtain ⟨t, u, hsilent, hexec, hagrees⟩ := hagree
  obtain ⟨k, hrun, hquiet⟩ := hsilent.exists_run
  obtain ⟨u', hexec', out, hanswer, -⟩ := exec_command_reports (isCommand_decodeCommand w) hport
  cases hexec.symm.trans hexec'
  refine ⟨k, t, u, hrun, hexec, hquiet, ?_, hagrees.resp, hagrees.phase, hagrees.stateReg, hagrees.counter,
    hagrees.seed⟩
  rw [hagrees.resp, hanswer]
  rfl
end
